-- ==== Sys2Proof/Word.lean ====
section
/-!
DEFINITION. The machine's words (spec/00_scope.md R7, R8): 8-bit registers and memory bytes, 16-bit `I`, `pc`,
stack entries and instruction words, 12-bit addresses inside an instruction, register and key indices 0..15.
All quantities are unsigned (R8).
-/

namespace Sys2Proof

/-- A byte of memory or of a `V` register, 8 bits (R7). -/
abbrev Byte := BitVec 8

/-- The width of `I`, `pc`, a stack entry and an instruction word, 16 bits (R7, R45). -/
abbrev Word := BitVec 16

/-- The field `nnn` of an instruction, 12 bits (R9, R47). -/
abbrev Addr12 := BitVec 12

/-- A register index 0..15, the fields `x` and `y` (R9, R11: every index is encodable and valid). -/
abbrev Reg := Fin 16

/-- A key index 0..15 (10_state.md R21). -/
abbrev Key := Fin 16

end Sys2Proof
end

