-- ==== Sys2Proof/Syntax.lean ====
section
/-!
DEFINITION. The 34 instructions of spec/30_encoding.md R50, one constructor per row of spec/opcode_table.json, in the table's
order. Register fields are `Reg` (R47), `kk` and `nnn` are bit vectors of the field's width, the row count `n` of Dxyn is a
number (its bound 0..15 is WellFormed's).
-/

namespace Sys2Proof

inductive Instr where
  /-- 00E0 `CLS` (44_display.md R105). -/
  | cls
  /-- 00EE `RET` (41_control_flow.md R73). -/
  | ret
  /-- 1nnn `JP nnn` (R71). -/
  | jp (nnn : Addr12)
  /-- 2nnn `CALL nnn` (R72). -/
  | call (nnn : Addr12)
  /-- 3xkk `SE Vx, kk` (R75). -/
  | seImm (x : Reg) (kk : Byte)
  /-- 4xkk `SNE Vx, kk` (R76). -/
  | sneImm (x : Reg) (kk : Byte)
  /-- 5xy0 `SE Vx, Vy` (R77). -/
  | seReg (x y : Reg)
  /-- 9xy0 `SNE Vx, Vy` (R78). -/
  | sneReg (x y : Reg)
  /-- 6xkk `LD Vx, kk` (42_alu.md R80). -/
  | ldImm (x : Reg) (kk : Byte)
  /-- 7xkk `ADD Vx, kk` (R81). -/
  | addImm (x : Reg) (kk : Byte)
  /-- 8xy0 `LD Vx, Vy` (R83). -/
  | ldReg (x y : Reg)
  /-- 8xy1 `OR Vx, Vy` (R84). -/
  | orReg (x y : Reg)
  /-- 8xy2 `AND Vx, Vy` (R85). -/
  | andReg (x y : Reg)
  /-- 8xy3 `XOR Vx, Vy` (R91). -/
  | xorReg (x y : Reg)
  /-- 8xy4 `ADD Vx, Vy` (R86). -/
  | addReg (x y : Reg)
  /-- 8xy5 `SUB Vx, Vy` (R87). -/
  | subReg (x y : Reg)
  /-- 8xy6 `SHR Vx` (R88); the field `y` is decoded (R47). -/
  | shr (x y : Reg)
  /-- 8xy7 `SUBN Vx, Vy` (R89). -/
  | subnReg (x y : Reg)
  /-- 8xyE `SHL Vx` (R90); the field `y` is decoded (R47). -/
  | shl (x y : Reg)
  /-- Annn `LD I, nnn` (43_index_memory.md R95). -/
  | ldI (nnn : Addr12)
  /-- Bnnn `JP V0, nnn` (41_control_flow.md R74). -/
  | jpV0 (nnn : Addr12)
  /-- Cxkk `RND Vx, kk` (42_alu.md R92). -/
  | rnd (x : Reg) (kk : Byte)
  /-- Dxyn `DRW Vx, Vy, n` (44_display.md R107). -/
  | drw (x y : Reg) (n : Nat)
  /-- Ex9E `SKP Vx` (45_keypad_timer_instr.md R111). -/
  | skp (x : Reg)
  /-- ExA1 `SKNP Vx` (R112). -/
  | sknp (x : Reg)
  /-- Fx07 `LD Vx, DT` (R114). -/
  | ldVxDT (x : Reg)
  /-- Fx0A `LD Vx, K` (R113). -/
  | ldVxK (x : Reg)
  /-- Fx15 `LD DT, Vx` (R115). -/
  | ldDTVx (x : Reg)
  /-- Fx18 `LD ST, Vx` (R116). -/
  | ldSTVx (x : Reg)
  /-- Fx1E `ADD I, Vx` (43_index_memory.md R96). -/
  | addI (x : Reg)
  /-- Fx29 `LD F, Vx` (R97). -/
  | ldF (x : Reg)
  /-- Fx33 `LD B, Vx` (R98). -/
  | ldB (x : Reg)
  /-- Fx55 `LD [I], Vx` (R99): stores `V[0..x]`. -/
  | storeRegs (x : Reg)
  /-- Fx65 `LD Vx, [I]` (R100): loads `V[0..x]`. -/
  | loadRegs (x : Reg)
  deriving DecidableEq, Repr

end Sys2Proof
end

