-- ==== Sys2Proof/Decode.lean ====
section
/-!
DEFINITION. Decoding and encoding (spec/30_encoding.md R45-R52). `decodeWord` is total on 16-bit words: the high nibble selects
the family (R48) and families 0, 5, 8, 9, E and F compare all their fixed digits (R49; the spec's decision D9, log 12).
`decode` reads the bytes as they lie in memory, high byte first (R45; 20_memory.md R32), and rejects by name.
`encode` is written from the patterns of R50.
-/

namespace Sys2Proof

/-! ### The fields of a word (R9, R46) -/

/-- The family nibble `op[15:12]`. -/
def familyField (op : Word) : BitVec 4 := op.extractLsb' 12 4

/-- `x = op[11:8]`. -/
def xField (op : Word) : Reg := (op.extractLsb' 8 4).toFin

/-- `y = op[7:4]`. -/
def yField (op : Word) : Reg := (op.extractLsb' 4 4).toFin

/-- The low nibble `op[3:0]`: the sub-opcode of format XY and the `n` of Dxyn. -/
def nField (op : Word) : BitVec 4 := op.extractLsb' 0 4

/-- `kk = op[7:0]`. -/
def kkField (op : Word) : Byte := op.extractLsb' 0 8

/-- `nnn = op[11:0]`. -/
def nnnField (op : Word) : Addr12 := op.extractLsb' 0 12

/-! ### Secondary decoding (R49) -/

/-- Family 0 compares the whole word. -/
def decodeFamily0 (op : Word) : Option Instr :=
  if op = 0x00E0#16 then some .cls
  else if op = 0x00EE#16 then some .ret
  else none

/-- Families 5 and 9 compare the low nibble with 0. -/
def decodeLowNibble0 (op : Word) (i : Reg → Reg → Instr) : Option Instr :=
  if nField op = 0x0#4 then some (i (xField op) (yField op)) else none

/-- Family 8 compares the low nibble with 0..7 and E. -/
def decodeFamily8 (op : Word) : Option Instr :=
  let x := xField op
  let y := yField op
  let sub := nField op
  if sub = 0x0#4 then some (.ldReg x y)
  else if sub = 0x1#4 then some (.orReg x y)
  else if sub = 0x2#4 then some (.andReg x y)
  else if sub = 0x3#4 then some (.xorReg x y)
  else if sub = 0x4#4 then some (.addReg x y)
  else if sub = 0x5#4 then some (.subReg x y)
  else if sub = 0x6#4 then some (.shr x y)
  else if sub = 0x7#4 then some (.subnReg x y)
  else if sub = 0xE#4 then some (.shl x y)
  else none

/-- Family E compares the low byte. -/
def decodeFamilyE (op : Word) : Option Instr :=
  let x := xField op
  let sub := kkField op
  if sub = 0x9E#8 then some (.skp x)
  else if sub = 0xA1#8 then some (.sknp x)
  else none

/-- Family F compares the low byte. -/
def decodeFamilyF (op : Word) : Option Instr :=
  let x := xField op
  let sub := kkField op
  if sub = 0x07#8 then some (.ldVxDT x)
  else if sub = 0x0A#8 then some (.ldVxK x)
  else if sub = 0x15#8 then some (.ldDTVx x)
  else if sub = 0x18#8 then some (.ldSTVx x)
  else if sub = 0x1E#8 then some (.addI x)
  else if sub = 0x29#8 then some (.ldF x)
  else if sub = 0x33#8 then some (.ldB x)
  else if sub = 0x55#8 then some (.storeRegs x)
  else if sub = 0x65#8 then some (.loadRegs x)
  else none

/-- `decode(op)` of 40_step_cycle.md R62 and 30_encoding.md R48: one of the 34 instructions, or `none` for `Unrecognised`. -/
def decodeWord (op : Word) : Option Instr :=
  let f := familyField op
  if f = 0x0#4 then decodeFamily0 op
  else if f = 0x1#4 then some (.jp (nnnField op))
  else if f = 0x2#4 then some (.call (nnnField op))
  else if f = 0x3#4 then some (.seImm (xField op) (kkField op))
  else if f = 0x4#4 then some (.sneImm (xField op) (kkField op))
  else if f = 0x5#4 then decodeLowNibble0 op .seReg
  else if f = 0x6#4 then some (.ldImm (xField op) (kkField op))
  else if f = 0x7#4 then some (.addImm (xField op) (kkField op))
  else if f = 0x8#4 then decodeFamily8 op
  else if f = 0x9#4 then decodeLowNibble0 op .sneReg
  else if f = 0xA#4 then some (.ldI (nnnField op))
  else if f = 0xB#4 then some (.jpV0 (nnnField op))
  else if f = 0xC#4 then some (.rnd (xField op) (kkField op))
  else if f = 0xD#4 then some (.drw (xField op) (yField op) (nField op).toNat)
  else if f = 0xE#4 then decodeFamilyE op
  else decodeFamilyF op

/-! ### Bytes -/

/-- Why a sequence of bytes gives no instruction. -/
inductive DecodeError where
  /-- Fewer than the two bytes of an instruction (R45). -/
  | truncated
  /-- A word outside the opcode table (R51), with the word. -/
  | unrecognised (op : Word)
  deriving DecidableEq, Repr

/-- The instruction word of two consecutive bytes, "high byte first" (20_memory.md R32). -/
def wordOfBytes (hi lo : Byte) : Word := hi ++ lo

/-- The two bytes of a word in the order memory holds them: the high byte at the lower address (R32). -/
def bytesOfWord (op : Word) : Byte × Byte := (op.extractLsb' 8 8, op.extractLsb' 0 8)

/-- Decode the instruction at the head of a byte sequence; the rest of the sequence is returned with it. -/
def decode : List Byte → Except DecodeError (Instr × List Byte)
  | hi :: lo :: rest =>
    match decodeWord (wordOfBytes hi lo) with
    | some i => .ok (i, rest)
    | none => .error (.unrecognised (wordOfBytes hi lo))
  | [] => .error .truncated
  | [_] => .error .truncated

/-! ### Encoding, from the patterns of R50 -/

/-- A register index as the four bits of its field. -/
def regBits (r : Reg) : BitVec 4 := BitVec.ofNat 4 r.val

/-- Format A: family, `nnn`. -/
def encA (f : BitVec 4) (nnn : Addr12) : Word := f ++ nnn

/-- Format XK, and format X with `kk` its fixed sub-opcode: family, `x`, `kk`. -/
def encXK (f : BitVec 4) (x : Reg) (kk : Byte) : Word := f ++ (regBits x ++ kk)

/-- Formats XY and XYN: family, `x`, `y`, low nibble. -/
def encXYN (f : BitVec 4) (x y : Reg) (n : BitVec 4) : Word := f ++ (regBits x ++ (regBits y ++ n))

/-- The word of an instruction (R50); of a Dxyn whose row count does not fit, the word of its low four bits. -/
def encode : Instr → Word
  | .cls => 0x00E0#16
  | .ret => 0x00EE#16
  | .jp nnn => encA 0x1#4 nnn
  | .call nnn => encA 0x2#4 nnn
  | .seImm x kk => encXK 0x3#4 x kk
  | .sneImm x kk => encXK 0x4#4 x kk
  | .seReg x y => encXYN 0x5#4 x y 0x0#4
  | .sneReg x y => encXYN 0x9#4 x y 0x0#4
  | .ldImm x kk => encXK 0x6#4 x kk
  | .addImm x kk => encXK 0x7#4 x kk
  | .ldReg x y => encXYN 0x8#4 x y 0x0#4
  | .orReg x y => encXYN 0x8#4 x y 0x1#4
  | .andReg x y => encXYN 0x8#4 x y 0x2#4
  | .xorReg x y => encXYN 0x8#4 x y 0x3#4
  | .addReg x y => encXYN 0x8#4 x y 0x4#4
  | .subReg x y => encXYN 0x8#4 x y 0x5#4
  | .shr x y => encXYN 0x8#4 x y 0x6#4
  | .subnReg x y => encXYN 0x8#4 x y 0x7#4
  | .shl x y => encXYN 0x8#4 x y 0xE#4
  | .ldI nnn => encA 0xA#4 nnn
  | .jpV0 nnn => encA 0xB#4 nnn
  | .rnd x kk => encXK 0xC#4 x kk
  | .drw x y n => encXYN 0xD#4 x y (BitVec.ofNat 4 n)
  | .skp x => encXK 0xE#4 x 0x9E#8
  | .sknp x => encXK 0xE#4 x 0xA1#8
  | .ldVxDT x => encXK 0xF#4 x 0x07#8
  | .ldVxK x => encXK 0xF#4 x 0x0A#8
  | .ldDTVx x => encXK 0xF#4 x 0x15#8
  | .ldSTVx x => encXK 0xF#4 x 0x18#8
  | .addI x => encXK 0xF#4 x 0x1E#8
  | .ldF x => encXK 0xF#4 x 0x29#8
  | .ldB x => encXK 0xF#4 x 0x33#8
  | .storeRegs x => encXK 0xF#4 x 0x55#8
  | .loadRegs x => encXK 0xF#4 x 0x65#8

/-! ### The opcode map as a table (R50) -/

/-- One row of R50: the mnemonic of spec/opcode_table.json, `match` and `mask`. -/
structure OpcodeRow where
  mnemonic : String
  pattern : Word
  mask : Word
  deriving DecidableEq, Repr

/-- "A word matches a row of rule R50 when `(op & mask) = match`" (R48). -/
def OpcodeRow.accepts (r : OpcodeRow) (op : Word) : Bool := op &&& r.mask == r.pattern

/-- The row of each instruction (R50). -/
def Instr.row : Instr → OpcodeRow
  | .cls => ⟨"CLS", 0x00E0#16, 0xFFFF#16⟩
  | .ret => ⟨"RET", 0x00EE#16, 0xFFFF#16⟩
  | .jp _ => ⟨"JP_nnn", 0x1000#16, 0xF000#16⟩
  | .call _ => ⟨"CALL_nnn", 0x2000#16, 0xF000#16⟩
  | .seImm _ _ => ⟨"SE_Vx__kk", 0x3000#16, 0xF000#16⟩
  | .sneImm _ _ => ⟨"SNE_Vx__kk", 0x4000#16, 0xF000#16⟩
  | .seReg _ _ => ⟨"SE_Vx__Vy", 0x5000#16, 0xF00F#16⟩
  | .sneReg _ _ => ⟨"SNE_Vx__Vy", 0x9000#16, 0xF00F#16⟩
  | .ldImm _ _ => ⟨"LD_Vx__kk", 0x6000#16, 0xF000#16⟩
  | .addImm _ _ => ⟨"ADD_Vx__kk", 0x7000#16, 0xF000#16⟩
  | .ldReg _ _ => ⟨"LD_Vx__Vy", 0x8000#16, 0xF00F#16⟩
  | .orReg _ _ => ⟨"OR_Vx__Vy", 0x8001#16, 0xF00F#16⟩
  | .andReg _ _ => ⟨"AND_Vx__Vy", 0x8002#16, 0xF00F#16⟩
  | .xorReg _ _ => ⟨"XOR_Vx__Vy", 0x8003#16, 0xF00F#16⟩
  | .addReg _ _ => ⟨"ADD_Vx__Vy", 0x8004#16, 0xF00F#16⟩
  | .subReg _ _ => ⟨"SUB_Vx__Vy", 0x8005#16, 0xF00F#16⟩
  | .shr _ _ => ⟨"SHR_Vx", 0x8006#16, 0xF00F#16⟩
  | .subnReg _ _ => ⟨"SUBN_Vx__Vy", 0x8007#16, 0xF00F#16⟩
  | .shl _ _ => ⟨"SHL_Vx", 0x800E#16, 0xF00F#16⟩
  | .ldI _ => ⟨"LD_I__nnn", 0xA000#16, 0xF000#16⟩
  | .jpV0 _ => ⟨"JP_V0__nnn", 0xB000#16, 0xF000#16⟩
  | .rnd _ _ => ⟨"RND_Vx__kk", 0xC000#16, 0xF000#16⟩
  | .drw _ _ _ => ⟨"DRW_Vx__Vy__n", 0xD000#16, 0xF000#16⟩
  | .skp _ => ⟨"SKP_Vx", 0xE09E#16, 0xF0FF#16⟩
  | .sknp _ => ⟨"SKNP_Vx", 0xE0A1#16, 0xF0FF#16⟩
  | .ldVxDT _ => ⟨"LD_Vx__DT", 0xF007#16, 0xF0FF#16⟩
  | .ldVxK _ => ⟨"LD_Vx__K", 0xF00A#16, 0xF0FF#16⟩
  | .ldDTVx _ => ⟨"LD_DT__Vx", 0xF015#16, 0xF0FF#16⟩
  | .ldSTVx _ => ⟨"LD_ST__Vx", 0xF018#16, 0xF0FF#16⟩
  | .addI _ => ⟨"ADD_I__Vx", 0xF01E#16, 0xF0FF#16⟩
  | .ldF _ => ⟨"LD_F__Vx", 0xF029#16, 0xF0FF#16⟩
  | .ldB _ => ⟨"LD_B__Vx", 0xF033#16, 0xF0FF#16⟩
  | .storeRegs _ => ⟨"LD__I___Vx", 0xF055#16, 0xF0FF#16⟩
  | .loadRegs _ => ⟨"LD_Vx___I", 0xF065#16, 0xF0FF#16⟩

/-- One instruction for each row, operands 0, in the table's order. -/
def Instr.representatives : List Instr :=
  [.cls, .ret, .jp 0, .call 0, .seImm 0 0, .sneImm 0 0, .seReg 0 0, .sneReg 0 0, .ldImm 0 0, .addImm 0 0]
  ++ [.ldReg 0 0, .orReg 0 0, .andReg 0 0, .xorReg 0 0, .addReg 0 0, .subReg 0 0, .shr 0 0, .subnReg 0 0, .shl 0 0]
  ++ [.ldI 0, .jpV0 0, .rnd 0 0, .drw 0 0 0, .skp 0, .sknp 0, .ldVxDT 0, .ldVxK 0, .ldDTVx 0, .ldSTVx 0]
  ++ [.addI 0, .ldF 0, .ldB 0, .storeRegs 0, .loadRegs 0]

/-- The opcode map: the 34 rows of R50. -/
def opcodeTable : List OpcodeRow := Instr.representatives.map Instr.row

/-! ### The host's view of one table word -/

/-- The instruction the decoder reads from an instruction whose bits are `w`, numbered as spec/opcode_table.json numbers them:
its `nbits` low bits are kept, the rest are 0; the word is laid out high byte first and given to `decode` (log 18). -/
def decodeTableWord (nbits w : Nat) : Option Instr :=
  let (hi, lo) := bytesOfWord (BitVec.ofNat 16 (w % 2 ^ nbits))
  match decode [hi, lo] with
  | .ok (i, _) => some i
  | .error _ => none

end Sys2Proof
end

