-- ==== Sys2Proof/Config.lean ====
section
/-!
DEFINITION. What is fixed for the machine and what is left free (spec/00_scope.md R7, R28): the sizes of R7, the setting of the
parameter `SHIFT_SRC`, and the free values, which are opaque constants without a body. The VALUES of the two parameters that
the spec asks a model to carry, `FONT_TABLE` and `SHIFT_SRC`, stand in Machine/Params.lean.
-/

namespace Sys2Proof.Config

/-- `MEM_SIZE` (R7): addresses 0x000..0xFFF. -/
@[simp] abbrev memSize : Nat := 4096

/-- `FONT_BASE` (R7). -/
@[simp] abbrev fontBase : Nat := 0x050

/-- `FONT_SIZE` (R7): 16 glyphs of 5 bytes. -/
@[simp] abbrev fontSize : Nat := 80

/-- `PROG_BASE` (R7). -/
@[simp] abbrev progBase : Nat := 0x200

/-- `PROG_MAX` (R7): 4096 − 512. -/
@[simp] abbrev progMax : Nat := 3584

/-- The settings of the parameter `SHIFT_SRC` (R7; 42_alu.md R88, R90): which register 8xy6 and 8xyE shift. -/
inductive ShiftSrc where
  | vx
  | vy
  deriving DecidableEq, Repr

/-- FREE VALUE (log 2). `draw8()` of 42_alu.md R93: the byte a Cxkk draws, named by the counter `State.freeIndex`.
It has no body: nothing constrains it, so a claim holds for every sequence of draws. -/
opaque freeByte : Nat → Byte

/-- FREE VALUE (log 3). The pick behind `choose S` of 45_keypad_timer_instr.md R113, named by `State.freeIndex`; the model
reduces it modulo the number of pressed keys, so it selects an arbitrary member of `S` and never anything else. -/
opaque freePick : Nat → Nat

end Sys2Proof.Config
end

