-- ==== Sys2Proof/Machine/Params.lean ====
section
/-!
DEFINITION. The values of the two parameters a model is asked to carry (spec/00_scope.md R7): `FONT_TABLE` (10_state.md R26) and
`SHIFT_SRC` (42_alu.md R88). They stand here, and not in Config.lean, so that a later repair may mend them.
-/

namespace Sys2Proof.Machine

/-- The glyphs of R26, five bytes each, digit 0 first. The spec marks the bytes as general knowledge, not in source (log 5). -/
def glyphs : List (List Byte) :=
  [[0xF0, 0x90, 0x90, 0x90, 0xF0], [0x20, 0x60, 0x20, 0x20, 0x70], [0xF0, 0x10, 0xF0, 0x80, 0xF0], [0xF0, 0x10, 0xF0, 0x10, 0xF0]]
  ++ [[0x90, 0x90, 0xF0, 0x10, 0x10], [0xF0, 0x80, 0xF0, 0x10, 0xF0], [0xF0, 0x80, 0xF0, 0x90, 0xF0], [0xF0, 0x10, 0x20, 0x40, 0x40]]
  ++ [[0xF0, 0x90, 0xF0, 0x90, 0xF0], [0xF0, 0x90, 0xF0, 0x10, 0xF0], [0xF0, 0x90, 0xF0, 0x90, 0x90], [0xE0, 0x90, 0xE0, 0x90, 0xE0]]
  ++ [[0xF0, 0x80, 0x80, 0x80, 0xF0], [0xE0, 0x90, 0x90, 0x90, 0xE0], [0xF0, 0x80, 0xF0, 0x80, 0xF0], [0xF0, 0x80, 0xF0, 0x80, 0x80]]

/-- `FONT_TABLE`: the 80 bytes in address order (R26). -/
def fontTable : List Byte := glyphs.flatten

/-- `SHIFT_SRC`: 8xy6 and 8xyE shift `V[x]` in place (R88, R90; the spec's decision D10; log 4). -/
def shiftSrc : Config.ShiftSrc := .vx

end Sys2Proof.Machine
end

