-- ==== Sys2Proof/Machine/State.lean ====
section
/-!
DEFINITION. The core's state as plain data (spec/10_state.md R10, "complete ... and nothing else"), the reasons a step or an
operation can stop, and the state right after `Init` (R27). `freeIndex` is the model's own field (log 2).
-/

namespace Sys2Proof.Machine

/-- `mem` (R10, R18): the bytes that differ from the reset contents, as (address, byte) pairs in the canonical form of
`Memory.wf`; an unlisted address reads as its reset contents, `unlistedByte` (log 17). -/
abbrev Memory := List Host.Cell

/-- The five causes of a fault (60_exceptions.md R121, codes 2 to 6). -/
inductive FaultCause where
  /-- The fetch phase of any `Step` with `pc > 0xFFE` (20_memory.md R34). -/
  | fetchOutOfRange
  /-- Fx33, Fx55, Fx65, Dxyn: last byte of the footprint above 0xFFF (20_memory.md R35). -/
  | dataAddressOutOfRange
  /-- 2nnn at `sp = 16` (41_control_flow.md R72). -/
  | stackOverflow
  /-- 00EE at `sp = 0` (41_control_flow.md R73). -/
  | stackUnderflow
  /-- Ex9E, ExA1 with `V[x] > 15` (45_keypad_timer_instr.md R111, R112). -/
  | keyIndexOutOfRange
  deriving DecidableEq, Repr

/-- `status` (R23). -/
inductive Status where
  /-- `Init` has never been invoked. -/
  | notStarted
  /-- Set by `Init`; all operations are available. -/
  | running
  /-- Set by `raise Fault(cause, info)`; sticky. -/
  | faulted (cause : FaultCause) (info : Nat)
  deriving DecidableEq, Repr

/-- A record of `diag_log` (R24): `(UnknownOpcode, op, at)`. -/
inductive Diag where
  /-- The word `op` was fetched from `addr` and matches no row of the opcode table. -/
  | unknownOpcode (op addr : Word)
  deriving DecidableEq, Repr

/-- The whole state of the core (R10), and the model's free-value counter. -/
structure State where
  /-- `V[0]`..`V[15]` (R11); `V[15]` is also the flag register (R12). -/
  V : Vector Byte 16
  /-- The index register `I` (R13). -/
  idx : Word
  /-- The program counter (R14). -/
  pc : Word
  /-- The return stack (R16). -/
  stack : Vector Word 16
  /-- The stack index, 0..16: the number of live entries (R17). -/
  sp : Fin 17
  /-- The 4096 bytes of memory (R18). -/
  mem : Memory
  /-- The framebuffer: cell `column + row * 64` (R19). -/
  gfx : Vector Bool 2048
  /-- `delay_timer` (R20). -/
  delayTimer : Byte
  /-- `sound_timer` (R20). -/
  soundTimer : Byte
  /-- `keypad[0..15]`: true is pressed (R21). -/
  keypad : Vector Bool 16
  /-- `draw_flag` (R22). -/
  drawFlag : Bool
  /-- `status` (R23). -/
  status : Status
  /-- `diag_log`, oldest first (R24). -/
  diagLog : List Diag
  /-- The MODEL'S OWN field (log 2): how many free values have been taken; it names the next one. -/
  freeIndex : Nat
  deriving DecidableEq, Repr

/-- What ends an operation with an error that is no state of the core. A `Step` never answers one: the faults of R121 with
codes 2 to 6 are a NEXT state whose `status` is `faulted` (R122; log 1). -/
inductive Fault where
  /-- Raised by the operation `Load` for an image longer than 3584 bytes (70_reset_and_hazards.md R143, R144; 60_exceptions.md
  R125). Safe: the spec reports exactly this, and the state before the `Load` stands unchanged (log 19). -/
  | loadError
  deriving DecidableEq, Repr

/-- What the model gives no transition. -/
inductive Refusal where
  /-- An instruction without a meaning, by its mnemonic: raised by no arm of `exec` now. Safe. -/
  | notModelled (mnemonic : String)
  /-- Every operation but `Init` while `status` is `NOT_STARTED` (10_state.md R23: "every operation but `Init` is refused";
  40_step_cycle.md R68). Safe. -/
  | notStarted
  /-- `Tick`, `SetKey`, `ClearDrawFlag` and `Load` while `FAULTED` (60_exceptions.md R123: "a model should give them no
  transition"). Safe. -/
  | whileFaulted
  /-- `Load` after the first `Step` (70_reset_and_hazards.md R144: "a model should refuse it"). Safe. -/
  | loadAfterStep
  /-- `Step` after a failed `Load` (70_reset_and_hazards.md R144: "a model gives no meaning to a run that steps after a failed
  load"). Safe. -/
  | stepAfterLoadError
  /-- `SetKey` with a key index above 15 (60_exceptions.md R131: "not an operation of the interface"). Safe. -/
  | keyIndexOutsideInterface (k : Nat)
  deriving DecidableEq, Repr

/-- The state right after `Init` (R27; 70_reset_and_hazards.md R140). Memory lists nothing: every byte is at its reset
contents. `freeIndex` is the model's own, 0 (log 2). -/
def State.reset : State where
  V := Vector.replicate 16 0
  idx := 0
  pc := 0x0200
  stack := Vector.replicate 16 0
  sp := 0
  mem := []
  gfx := Vector.replicate 2048 false
  delayTimer := 0
  soundTimer := 0
  keypad := Vector.replicate 16 false
  drawFlag := false
  status := .running
  diagLog := []
  freeIndex := 0

/-- An outcome of this machine. -/
abbrev Result := Host.Outcome State Fault Refusal

end Sys2Proof.Machine
end

