-- ==== Sys2Proof/Machine/Ops.lean ====
section
/-!
DEFINITION. The shared operations: memory (spec/20_memory.md), registers and `pc` (10_state.md), raising a fault and the way out
of it (60_exceptions.md), fetch and the unrecognised word (40_step_cycle.md).
-/

namespace Sys2Proof.Machine

/-! ### Memory (20_memory.md R30, R31; log 17) -/

/-- What an address holds after `Init` (10_state.md R27): FONT_TABLE at 0x050..0x09F, 0 elsewhere. -/
def unlistedByte (a : Nat) : Byte :=
  if Config.fontBase ≤ a ∧ a < Config.fontBase + Config.fontSize then fontTable.getD (a - Config.fontBase) 0 else 0

/-- The listed byte of an address, if any. -/
def Memory.lookup (a : Nat) : Memory → Option Byte
  | [] => none
  | (b, v) :: rest => if b = a then some v else Memory.lookup a rest

/-- `mem[a]`. -/
def Memory.read (m : Memory) (a : Nat) : Byte := (Memory.lookup a m).getD (unlistedByte a)

/-- List `v` at `a`, keeping addresses rising. -/
def Memory.insert (a : Nat) (v : Byte) : Memory → Memory
  | [] => [(a, v)]
  | (b, w) :: rest =>
    if a < b then (a, v) :: (b, w) :: rest
    else if a = b then (a, v) :: rest
    else (b, w) :: Memory.insert a v rest

/-- Unlist `a`. -/
def Memory.erase (a : Nat) : Memory → Memory
  | [] => []
  | (b, w) :: rest => if b = a then rest else (b, w) :: Memory.erase a rest

/-- `mem[a] <- v`. An address outside `mem` is written by no instruction (R35); here it changes nothing (log 17). -/
def Memory.write (m : Memory) (a : Nat) (v : Byte) : Memory :=
  if a < Config.memSize then
    if v = unlistedByte a then Memory.erase a m else Memory.insert a v m
  else m

/-- `for k: MemWrite(a + k, 1, bytes[k])`, ascending. -/
def Memory.writeBytes (m : Memory) (a : Nat) : List Byte → Memory
  | [] => m
  | v :: rest => Memory.writeBytes (m.write a v) (a + 1) rest

/-- Every listed address is at least `lo` and inside `mem`, addresses rise strictly, and no entry equals the reset contents. -/
def Memory.wfFrom (lo : Nat) : Memory → Bool
  | [] => true
  | (a, v) :: rest => decide (lo ≤ a) && decide (a < Config.memSize) && decide (v ≠ unlistedByte a) && Memory.wfFrom (a + 1) rest

/-- The canonical form of memory. -/
def Memory.wf (m : Memory) : Bool := Memory.wfFrom 0 m

/-! ### Registers and `pc` -/

/-- `V[r]`. -/
def State.readV (s : State) (r : Reg) : Byte := s.V.get r

/-- `V[r] <- v`. -/
def State.writeV (s : State) (r : Reg) (v : Byte) : State := { s with V := s.V.set r.val v r.isLt }

/-- `pc <- target`. -/
def State.setPc (s : State) (target : Word) : State := { s with pc := target }

/-- `pc <- P + 2` (10_state.md R14, R15). -/
def State.advance (s : State) : State := s.setPc (s.pc + 2)

/-- The end of a conditional skip (41_control_flow.md R70): `pc <- P + 4` if the condition holds, else `pc <- P + 2`. -/
def State.skipIf (s : State) (c : Bool) : State := s.setPc (if c then s.pc + 4 else s.pc + 2)

/-! ### Faults (60_exceptions.md R121-R123) -/

/-- `raise Fault(cause, info)` (R122): `status <- FAULTED(cause, info)` and nothing else. Nothing is saved, `pc` stays at the
faulting instruction, control goes nowhere (log 1). -/
def raise (cause : FaultCause) (info : Nat) (s : State) : Result :=
  .next { s with status := .faulted cause info }

/-- `Init` (70_reset_and_hazards.md R140): the reset state, from any state (R141). It is the only way out of `FAULTED` (R123).
The free-value counter goes on: a run after a second `Init` does not draw the first run's values again (log 2). -/
def init (s : State) : State := { State.reset with freeIndex := s.freeIndex }

/-- The numeric codes of R121 (the spec's decision D27). -/
def FaultCause.code : FaultCause → Nat
  | .fetchOutOfRange => 2
  | .dataAddressOutOfRange => 3
  | .stackOverflow => 4
  | .stackUnderflow => 5
  | .keyIndexOutOfRange => 6

/-- The code of a diagnostic (R121). -/
def Diag.code : Diag → Nat
  | .unknownOpcode _ _ => 0

/-- The code of a reported error (R121). -/
def Fault.code : Fault → Nat
  | .loadError => 1

/-- The footprint check of a data access of `n` bytes at `I` (20_memory.md R35): before any byte moves, a last byte above
0xFFF raises `DataAddressOutOfRange` with the lowest offending address `max(I, 0x1000)`; `n = 0` accesses nothing. -/
def guardFootprint (n : Nat) (s : State) (act : Result) : Result :=
  if 1 ≤ n ∧ s.idx.toNat + n - 1 > 0xFFF then raise .dataAddressOutOfRange (max s.idx.toNat 0x1000) s else act

/-! ### Fetch and the unrecognised word (40_step_cycle.md R61, R64) -/

/-- Whether a fetch at `pc` stays inside `mem` (R61, 20_memory.md R34). -/
def State.fetchable (s : State) : Bool := decide (s.pc.toNat ≤ 0xFFE)

/-- `MemRead(pc, 2)`: the two bytes at `pc`, the first in the high half (R61; 20_memory.md R32). -/
def State.fetchWord (s : State) : Word := wordOfBytes (s.mem.read s.pc.toNat) (s.mem.read (s.pc.toNat + 1))

/-- `emit Diag(UnknownOpcode, op, P); pc <- P + 2` (R64). -/
def unknownOpcode (op : Word) (s : State) : Result :=
  .next { s with diagLog := s.diagLog ++ [.unknownOpcode op s.pc], pc := s.pc + 2 }

/-- The three phases of a `Step` whose status is RUNNING, given what EXECUTE is (R60): fetch or its fault, decode, then the
instruction or R64. -/
def fetchDecodeExecute (execute : Instr → State → Result) (s : State) : Result :=
  if s.fetchable then
    match decodeWord s.fetchWord with
    | some i => execute i s
    | none => unknownOpcode s.fetchWord s
  else raise .fetchOutOfRange s.pc.toNat s

/-- Store a word where the next fetch reads it, high byte first. -/
def State.placeWord (s : State) (op : Word) : State :=
  { s with mem := s.mem.writeBytes s.pc.toNat [(bytesOfWord op).1, (bytesOfWord op).2] }

end Sys2Proof.Machine
end

