-- ==== Sys2Proof/Machine/Operands.lean ====
section
/-!
DEFINITION. The operand forms (spec/30_encoding.md R47; 20_memory.md R44): `nnn` zero-extended, a register zero-extended to 16
bits, the shifted operand, the register ranges of Fx55 and Fx65, the decimal digits of Fx33, sprite coordinates, keys.
-/

namespace Sys2Proof.Machine

/-- `nnn`, "zero-extended to 16 bits when written to `pc` or `I`" (R47). -/
def addrOperand (nnn : Addr12) : Word := nnn.setWidth 16

/-- A register zero-extended to 16 bits (10_state.md R13; 43_index_memory.md R96). -/
def State.readV16 (s : State) (r : Reg) : Word := (s.readV r).setWidth 16

/-- The operand of 8xy6 and 8xyE under `SHIFT_SRC` (42_alu.md R88, R90). -/
def shiftOperand (src : Config.ShiftSrc) (x y : Reg) (s : State) : Byte :=
  match src with
  | .vx => s.readV x
  | .vy => s.readV y

/-- `V[0], ..., V[x]` (43_index_memory.md R99). -/
def State.regsUpTo (s : State) (x : Reg) : List Byte := s.V.toList.take (x.val + 1)

/-- `for k in 0 .. x: V[k] <- MemRead(I + k, 1)` (43_index_memory.md R100); registers above `x` keep their value. -/
def State.loadedRegs (s : State) (x : Reg) : Vector Byte 16 :=
  Vector.ofFn fun k : Fin 16 => if k ≤ x then s.mem.read (s.idx.toNat + k.val) else s.V.get k

/-- Hundreds, tens and ones of a byte (43_index_memory.md R98). -/
def bcdDigits (v : Byte) : List Byte :=
  [BitVec.ofNat 8 (v.toNat / 100), BitVec.ofNat 8 (v.toNat / 10 % 10), BitVec.ofNat 8 (v.toNat % 10)]

/-- The address of the glyph of a value: `0x050 + 5 * v`, no masking (43_index_memory.md R97). -/
def glyphAddress (v : Byte) : Word := BitVec.ofNat 16 (Config.fontBase + 5 * v.toNat)

/-- The keys that are down, in rising order (45_keypad_timer_instr.md R113: the set `S`). -/
def State.pressedKeys (s : State) : List Key := (List.finRange 16).filter fun k => s.keypad.get k

/-- The index of a key as a register value. -/
def keyByte (k : Key) : Byte := BitVec.ofNat 8 k.val

/-- `let k = V[x]; if k > 15: raise Fault(KeyIndexOutOfRange, k)`, then the key's level decides (R111, R112). -/
def withKey (x : Reg) (s : State) (act : Bool → Result) : Result :=
  let k := (s.readV x).toNat
  if h : k < 16 then act (s.keypad.get ⟨k, h⟩) else raise .keyIndexOutOfRange k s

end Sys2Proof.Machine
end

