-- ==== Sys2Proof/Machine/Flags.lean ====
section
/-!
DEFINITION. The flag computations of spec/10_state.md R12 and the write order of 42_alu.md R82: operands are latched, the result
goes to `V[x]`, the flag to `V[15]` last (log 6). Arithmetic is exact on naturals and narrowed at the end (42_alu.md R94).
-/

namespace Sys2Proof.Machine

/-- The flag register `V[15]` (R12). -/
def flagReg : Reg := 15

/-- A flag value as a byte: the number 0 or 1. -/
def flagByte (b : Bool) : Byte := if b then 1 else 0

/-- `(a + b) mod 256` (R94). -/
def addResult (a b : Byte) : Byte := BitVec.ofNat 8 (a.toNat + b.toNat)

/-- Carry: 1 exactly when `a + b > 255` (42_alu.md R86). -/
def carryFlag (a b : Byte) : Bool := decide (a.toNat + b.toNat > 255)

/-- `(a - b) mod 256` (R94). -/
def subResult (a b : Byte) : Byte := BitVec.ofNat 8 (a.toNat + 256 - b.toNat)

/-- Not-borrow: 1 exactly when `a >= b`, equal operands included (42_alu.md R87; the spec's decision D12, log 6). -/
def notBorrowFlag (a b : Byte) : Bool := decide (a.toNat ≥ b.toNat)

/-- `a >> 1`, zero fill (42_alu.md R88). -/
def shrResult (a : Byte) : Byte := a >>> 1

/-- The bit a right shift moves out: bit 0 (R88). -/
def shrFlag (a : Byte) : Bool := a.getLsbD 0

/-- `(a << 1) mod 256`, zero fill (42_alu.md R90). -/
def shlResult (a : Byte) : Byte := a <<< 1

/-- The bit a left shift moves out: bit 7 (R90). -/
def shlFlag (a : Byte) : Bool := a.getLsbD 7

/-- `V[x] <- result; V[15] <- flag; pc <- P + 2` in this order (42_alu.md R82). -/
def State.writeResultFlag (s : State) (x : Reg) (result : Byte) (flag : Bool) : State :=
  ((s.writeV x result).writeV flagReg (flagByte flag)).advance

end Sys2Proof.Machine
end

