-- ==== Sys2Proof/Machine/Alu.lean ====
section
/-!
DEFINITION. Register load, arithmetic, logic, random (spec/42_alu.md). None touches memory, `I`, the stack, the display, the
keypad or the timers, and none can fault.
-/

namespace Sys2Proof.Machine

/-- `V[x] <- v; pc <- P + 2`: the shape of the instructions that write no flag. -/
def writeAndAdvance (x : Reg) (v : Byte) (s : State) : Result := .next (s.writeV x v).advance

/-- 6xkk `LD Vx, kk` (R80). -/
def execLdImm (x : Reg) (kk : Byte) (s : State) : Result := writeAndAdvance x kk s

/-- 7xkk `ADD Vx, kk` (R81): mod 256, `V[15]` not written as a flag. -/
def execAddImm (x : Reg) (kk : Byte) (s : State) : Result := writeAndAdvance x (addResult (s.readV x) kk) s

/-- 8xy0 `LD Vx, Vy` (R83). -/
def execLdReg (x y : Reg) (s : State) : Result := writeAndAdvance x (s.readV y) s

/-- 8xy1 `OR Vx, Vy` (R84). -/
def execOrReg (x y : Reg) (s : State) : Result := writeAndAdvance x (s.readV x ||| s.readV y) s

/-- 8xy2 `AND Vx, Vy` (R85). -/
def execAndReg (x y : Reg) (s : State) : Result := writeAndAdvance x (s.readV x &&& s.readV y) s

/-- 8xy3 `XOR Vx, Vy` (R91). -/
def execXorReg (x y : Reg) (s : State) : Result := writeAndAdvance x (s.readV x ^^^ s.readV y) s

/-- 8xy4 `ADD Vx, Vy` (R86): carry into `V[15]`. -/
def execAddReg (x y : Reg) (s : State) : Result :=
  let a := s.readV x
  let b := s.readV y
  .next (s.writeResultFlag x (addResult a b) (carryFlag a b))

/-- 8xy5 `SUB Vx, Vy` (R87): `V[x] - V[y]`, not-borrow into `V[15]`. -/
def execSubReg (x y : Reg) (s : State) : Result :=
  let a := s.readV x
  let b := s.readV y
  .next (s.writeResultFlag x (subResult a b) (notBorrowFlag a b))

/-- 8xy6 `SHR Vx` (R88): shift right by one, bit 0 into `V[15]`. -/
def execShr (x y : Reg) (s : State) : Result :=
  let a := shiftOperand shiftSrc x y s
  .next (s.writeResultFlag x (shrResult a) (shrFlag a))

/-- 8xy7 `SUBN Vx, Vy` (R89): `V[y] - V[x]`, not-borrow into `V[15]`. -/
def execSubnReg (x y : Reg) (s : State) : Result :=
  let a := s.readV x
  let b := s.readV y
  .next (s.writeResultFlag x (subResult b a) (notBorrowFlag b a))

/-- 8xyE `SHL Vx` (R90): shift left by one, bit 7 into `V[15]`. -/
def execShl (x y : Reg) (s : State) : Result :=
  let a := shiftOperand shiftSrc x y s
  .next (s.writeResultFlag x (shlResult a) (shlFlag a))

/-- Cxkk `RND Vx, kk` (R92): a fresh `draw8()` masked with `kk` (R93; log 2). -/
def execRnd (x : Reg) (kk : Byte) (s : State) : Result :=
  writeAndAdvance x (Config.freeByte s.freeIndex &&& kk) { s with freeIndex := s.freeIndex + 1 }

end Sys2Proof.Machine
end

