-- ==== Sys2Proof/Machine/Control.lean ====
section
/-!
DEFINITION. The control-flow instructions (spec/41_control_flow.md): jumps, call, return, conditional skips. None writes `V[15]`,
`I`, memory, the display or the timers (R70).
-/

namespace Sys2Proof.Machine

/-- 00EE `RET` (R73): `sp <- sp - 1; pc <- stack[sp] + 2`, or `StackUnderflow` on an empty stack. The popped entry keeps its
value (10_state.md R16). -/
def execRet (s : State) : Result :=
  if h : s.sp.val = 0 then raise .stackUnderflow s.pc.toNat s
  else
    let sp' : Fin 16 := ⟨s.sp.val - 1, by omega⟩
    .next { s with sp := sp'.castSucc, pc := s.stack.get sp' + 2 }

/-- 1nnn `JP nnn` (R71). -/
def execJp (nnn : Addr12) (s : State) : Result := .next (s.setPc (addrOperand nnn))

/-- 2nnn `CALL nnn` (R72): push the address of this CALL, then jump; `StackOverflow` when 16 entries are live. -/
def execCall (nnn : Addr12) (s : State) : Result :=
  if h : s.sp.val = 16 then raise .stackOverflow s.pc.toNat s
  else
    let top : Fin 16 := ⟨s.sp.val, by omega⟩
    .next { s with stack := s.stack.set top.val s.pc top.isLt, sp := top.succ, pc := addrOperand nnn }

/-- 3xkk `SE Vx, kk` (R75). -/
def execSeImm (x : Reg) (kk : Byte) (s : State) : Result := .next (s.skipIf (s.readV x == kk))

/-- 4xkk `SNE Vx, kk` (R76). -/
def execSneImm (x : Reg) (kk : Byte) (s : State) : Result := .next (s.skipIf (s.readV x != kk))

/-- 5xy0 `SE Vx, Vy` (R77). -/
def execSeReg (x y : Reg) (s : State) : Result := .next (s.skipIf (s.readV x == s.readV y))

/-- 9xy0 `SNE Vx, Vy` (R78). -/
def execSneReg (x y : Reg) (s : State) : Result := .next (s.skipIf (s.readV x != s.readV y))

/-- Bnnn `JP V0, nnn` (R74): `pc <- nnn + V[0]`, not masked to 12 bits. -/
def execJpV0 (nnn : Addr12) (s : State) : Result := .next (s.setPc (addrOperand nnn + s.readV16 0))

end Sys2Proof.Machine
end

