-- ==== Sys2Proof/Machine/Display.lean ====
section
/-!
DEFINITION. Display (spec/44_display.md): clear and sprite draw over the framebuffer of 10_state.md R19. The draw is the pair of
loops of R107, pixel by pixel.
-/

namespace Sys2Proof.Machine

/-- The framebuffer and the variable `hit` of R107 while a sprite is drawn. -/
structure Canvas where
  gfx : Vector Bool 2048
  hit : Bool
  deriving DecidableEq, Repr

/-- `((column) mod 64) + ((row) mod 32) * 64` (R106, 20_memory.md R42): always a cell. -/
def cellIndex (column row : Nat) : Fin 2048 := ⟨column % 64 + row % 32 * 64, by omega⟩

/-- One set sprite bit: `if gfx[c] = 1: hit <- 1; gfx[c] <- gfx[c] ^ 1` (R107). -/
def Canvas.toggle (cv : Canvas) (c : Fin 2048) : Canvas :=
  { gfx := cv.gfx.set c.val (!cv.gfx.get c) c.isLt
    hit := cv.hit || cv.gfx.get c }

/-- Column offset `c` of a sprite row is bit `7 - c` of its byte: bit 7 is the leftmost pixel (R106; log 13). -/
def spriteBit (b : Byte) (c : Nat) : Bool := b.getLsbD (7 - c)

/-- The inner loop of R107: the eight columns of one row byte. -/
def drawRow (b : Byte) (x0 row : Nat) (cv : Canvas) : Canvas :=
  (List.range 8).foldl (fun cv c => if spriteBit b c then cv.toggle (cellIndex (x0 + c) row) else cv) cv

/-- The outer loop of R107: rows `0 .. n - 1`, row `r` from address `base + r`. -/
def drawSprite (m : Memory) (base x0 y0 n : Nat) (gfx : Vector Bool 2048) : Canvas :=
  (List.range n).foldl (fun cv r => drawRow (m.read (base + r)) x0 (y0 + r) cv) { gfx := gfx, hit := false }

/-- 00E0 `CLS` (R105). -/
def execCls (s : State) : Result :=
  .next { s.advance with gfx := Vector.replicate 2048 false, drawFlag := true }

/-- Dxyn `DRW Vx, Vy, n` (R107): coordinates latched and reduced, footprint checked, sprite drawn, `V[15] <- hit`,
`draw_flag <- 1`. -/
def execDrw (x y : Reg) (n : Nat) (s : State) : Result :=
  let x0 := (s.readV x).toNat % 64
  let y0 := (s.readV y).toNat % 32
  guardFootprint n s
    (let cv := drawSprite s.mem s.idx.toNat x0 y0 n s.gfx
     .next { (s.writeV flagReg (flagByte cv.hit)).advance with gfx := cv.gfx, drawFlag := true })

end Sys2Proof.Machine
end

