-- ==== Sys2Proof/Machine/Index.lean ====
section
/-!
DEFINITION. Index register and memory transfer (spec/43_index_memory.md). All data accesses go through `I`; the whole footprint is
range-checked before the first access, so an instruction completes or faults with no effect (R101).
-/

namespace Sys2Proof.Machine

/-- Annn `LD I, nnn` (R95). -/
def execLdI (nnn : Addr12) (s : State) : Result := .next { s.advance with idx := addrOperand nnn }

/-- Fx1E `ADD I, Vx` (R96): mod 65536, not masked to 12 bits, `V[15]` not written. -/
def execAddI (x : Reg) (s : State) : Result := .next { s.advance with idx := s.idx + s.readV16 x }

/-- Fx29 `LD F, Vx` (R97). -/
def execLdF (x : Reg) (s : State) : Result := .next { s.advance with idx := glyphAddress (s.readV x) }

/-- Fx33 `LD B, Vx` (R98): three digit bytes at `I`; `I` unchanged. -/
def execLdB (x : Reg) (s : State) : Result :=
  guardFootprint 3 s (.next { s.advance with mem := s.mem.writeBytes s.idx.toNat (bcdDigits (s.readV x)) })

/-- Fx55 `LD [I], Vx` (R99): `V[0..x]` to memory from `I` up; `I <- I + x + 1`. -/
def execStoreRegs (x : Reg) (s : State) : Result :=
  guardFootprint (x.val + 1) s
    (.next { s.advance with
      mem := s.mem.writeBytes s.idx.toNat (s.regsUpTo x)
      idx := s.idx + BitVec.ofNat 16 (x.val + 1) })

/-- Fx65 `LD Vx, [I]` (R100): memory from `I` up to `V[0..x]`; `I <- I + x + 1`. -/
def execLoadRegs (x : Reg) (s : State) : Result :=
  guardFootprint (x.val + 1) s
    (.next { s.advance with
      V := s.loadedRegs x
      idx := s.idx + BitVec.ofNat 16 (x.val + 1) })

end Sys2Proof.Machine
end

