-- ==== Sys2Proof/Machine/KeypadTimer.lean ====
section
/-!
DEFINITION. Keypad and timer instructions (spec/45_keypad_timer_instr.md). They read `keypad` and `delay_timer` as they stand at
the moment of the step (R110).
-/

namespace Sys2Proof.Machine

/-- Ex9E `SKP Vx` (R111). -/
def execSkp (x : Reg) (s : State) : Result := withKey x s fun pressed => .next (s.skipIf pressed)

/-- ExA1 `SKNP Vx` (R112). -/
def execSknp (x : Reg) (s : State) : Result := withKey x s fun pressed => .next (s.skipIf (!pressed))

/-- `choose S` over the non-empty list `k :: rest` (00_scope.md R8): the member at position `pick` modulo the size (log 3). -/
def chooseKey (pick : Nat) (k : Key) (rest : List Key) : Key := (k :: rest).getD (pick % (rest.length + 1)) k

/-- Fx0A `LD Vx, K` (R113): no key down, no state change; else `V[x]` gets the index of an arbitrary pressed key. -/
def execLdVxK (x : Reg) (s : State) : Result :=
  match s.pressedKeys with
  | [] => .next s
  | k :: rest =>
    .next ({ s with freeIndex := s.freeIndex + 1 }.writeV x (keyByte (chooseKey (Config.freePick s.freeIndex) k rest))).advance

/-- Fx07 `LD Vx, DT` (R114). -/
def execLdVxDT (x : Reg) (s : State) : Result := .next (s.writeV x s.delayTimer).advance

/-- Fx15 `LD DT, Vx` (R115). -/
def execLdDTVx (x : Reg) (s : State) : Result := .next { s.advance with delayTimer := s.readV x }

/-- Fx18 `LD ST, Vx` (R116). -/
def execLdSTVx (x : Reg) (s : State) : Result := .next { s.advance with soundTimer := s.readV x }

end Sys2Proof.Machine
end

