-- ==== Sys2Proof/Machine/Step.lean ====
section
/-!
DEFINITION. `Step` (spec/40_step_cycle.md R60, R68) and the placing of a word for the next fetch (log 18).
-/

namespace Sys2Proof.Machine

/-- One `Step` (R60): refused while NOT_STARTED (R68), no change while FAULTED (R68), else fetch, decode, execute. -/
def step (s : State) : Host.Outcome State Fault Refusal :=
  match s.status with
  | .notStarted => .refused .notStarted
  | .faulted _ _ => .next s
  | .running => fetchDecodeExecute exec s

/-- `s` with the instruction whose bits are `w` (as spec/opcode_table.json numbers them, the bits above `nbits` zero) stored at
`pc`, high byte first, where the next `Step` fetches it. -/
def State.withFetchWord (s : State) (nbits w : Nat) : State := s.placeWord (BitVec.ofNat 16 (w % 2 ^ nbits))

end Sys2Proof.Machine
end

