-- ==== Sys2Proof/Machine/Operations.lean ====
section
/-!
DEFINITION. The host operations beside `Step` (spec/00_scope.md R6): `Load`, `Tick`, `SetKey`, `ClearDrawFlag` and observation
(`Init` stands in Machine/Ops.lean), and the host protocol of 60_exceptions.md R136 and 70_reset_and_hazards.md R142, R144 as a
Session over the core: any sequence of operations, in the one total order of 20_memory.md R38 (log 10).
-/

namespace Sys2Proof.Machine

/-- The precondition `status = RUNNING` of the host operations (60_exceptions.md R128, R131, R133; 10_state.md R23, R123). -/
def whileRunning (s : State) (act : Result) : Result :=
  match s.status with
  | .running => act
  | .notStarted => .refused .notStarted
  | .faulted _ _ => .refused .whileFaulted

/-- `Load(bytes)` (70_reset_and_hazards.md R143): copy to 0x200 upward, or LoadError and no state change (R144; log 19). -/
def load (bytes : List Byte) (s : State) : Result :=
  whileRunning s
    (if bytes.length > Config.progMax then .fault .loadError
     else .next { s with mem := s.mem.writeBytes Config.progBase bytes })

/-- `if t > 0: t <- t - 1` (60_exceptions.md R128). -/
def countDown (t : Byte) : Byte := if t.toNat > 0 then t - 1 else t

/-- `Tick` (60_exceptions.md R128): both timers down by one, floored at 0. -/
def tick (s : State) : Result :=
  whileRunning s (.next { s with delayTimer := countDown s.delayTimer, soundTimer := countDown s.soundTimer })

/-- `SetKey(k, b)` (60_exceptions.md R131); an index above 15 is not an operation of the interface (log 11). -/
def setKey (k : Nat) (b : Bool) (s : State) : Result :=
  whileRunning s
    (if h : k < 16 then .next { s with keypad := s.keypad.set k b h } else .refused (.keyIndexOutsideInterface k))

/-- `ClearDrawFlag` (60_exceptions.md R133). -/
def clearDrawFlag (s : State) : Result := whileRunning s (.next { s with drawFlag := false })

/-- What the host may read between operations (00_scope.md R6; 60_exceptions.md R132, R136). -/
structure Observation where
  gfx : Vector Bool 2048
  drawFlag : Bool
  diagLog : List Diag
  status : Status
  deriving DecidableEq, Repr

/-- The observation of a state. -/
def State.observe (s : State) : Observation :=
  { gfx := s.gfx, drawFlag := s.drawFlag, diagLog := s.diagLog, status := s.status }

/-- The pixel at a column and a row: cell `column + row * 64` (60_exceptions.md R132; 10_state.md R19). -/
def Observation.pixel (o : Observation) (column : Fin 64) (row : Fin 32) : Bool :=
  o.gfx.get ⟨column.val + row.val * 64, by omega⟩

/-! ### The host protocol -/

/-- The operations of R6. -/
inductive Operation where
  | init
  | load (bytes : List Byte)
  | step
  | tick
  | setKey (k : Nat) (b : Bool)
  | clearDrawFlag
  deriving DecidableEq, Repr

/-- How far the boot order of 70_reset_and_hazards.md R142 has come since the last `Init`. -/
inductive Phase where
  /-- No `Step` yet: `Load` is permitted. -/
  | loading
  /-- A `Load` reported LoadError: `Step` has no meaning until the next `Init` (R144). -/
  | loadFailed
  /-- A `Step` has been invoked: `Load` is refused (R144). -/
  | stepping
  deriving DecidableEq, Repr

/-- The core, with what the host protocol remembers. -/
structure Session where
  core : State
  phase : Phase
  deriving DecidableEq, Repr

/-- What one operation of the host makes of a session. -/
abbrev SessionResult := Host.Outcome Session Fault Refusal

/-- The outcome of the core as an outcome of the session, which enters `phase`. -/
def Session.after (phase : Phase) : Result → SessionResult
  | .next s => .next { core := s, phase := phase }
  | .fault f => .fault f
  | .refused r => .refused r

/-- `Load` in a session: refused after the first `Step` (R144); a LoadError is surfaced to the host by `Phase.loadFailed`, the
core unchanged, and stays so until `Init` ("execution never starts"). -/
def Session.load (bytes : List Byte) (σ : Session) : SessionResult :=
  match σ.phase with
  | .stepping => .refused .loadAfterStep
  | .loading | .loadFailed =>
    match Sys2Proof.Machine.load bytes σ.core with
    | .next s => .next { σ with core := s }
    | .fault .loadError => .next { σ with phase := .loadFailed }
    | .refused r => .refused r

/-- `Step` in a session: refused after a failed `Load` (R144). -/
def Session.step (σ : Session) : SessionResult :=
  match σ.phase with
  | .loadFailed => .refused .stepAfterLoadError
  | .loading | .stepping => Session.after .stepping (Sys2Proof.Machine.step σ.core)

/-- One operation of the host, atomic (20_memory.md R38). -/
def Session.apply (op : Operation) (σ : Session) : SessionResult :=
  match op with
  | .init => .next { core := Sys2Proof.Machine.init σ.core, phase := .loading }
  | .load bytes => σ.load bytes
  | .step => σ.step
  | .tick => Session.after σ.phase (Sys2Proof.Machine.tick σ.core)
  | .setKey k b => Session.after σ.phase (Sys2Proof.Machine.setKey k b σ.core)
  | .clearDrawFlag => Session.after σ.phase (Sys2Proof.Machine.clearDrawFlag σ.core)

/-- A sequence of operations, in order, ending at the first that has no next session. -/
def Session.run : List Operation → Session → SessionResult
  | [], σ => .next σ
  | op :: ops, σ =>
    match σ.apply op with
    | .next σ' => Session.run ops σ'
    | .fault f => .fault f
    | .refused r => .refused r

/-- The session right after `Init`. -/
def Session.reset : Session := { core := State.reset, phase := .loading }

end Sys2Proof.Machine
end

