-- ==== Sys2Proof/Safety.lean ====
section
/-!
DEFINITION. What a safe run is and the terms in which claims are stated: the invariant of the machine, the tables of the spec's
whole-machine rules (10_state.md R11, R12, R15; 60_exceptions.md R121) written beside the meanings and not from them, and the
shapes of a completed instruction.
-/

namespace Sys2Proof.Machine

/-! ### Safe states and the invariant -/

/-- A safe state: "every claim about a program takes `status = RUNNING` throughout as part of what it proves" (R122). -/
def State.safe (s : State) : Bool := s.status == .running

/-- The invariant of the machine: memory is in canonical form; `pc` is at most 0x10FE, "the largest value an instruction can
produce" (10_state.md R14); every live stack entry is "a fetchable `P <= 0xFFE`" (41_control_flow.md R73). -/
structure State.Inv (s : State) : Prop where
  memory : s.mem.wf = true
  pcBound : s.pc.toNat ≤ 0x10FE
  liveEntries : ∀ j : Fin 16, j.val < s.sp.val → (s.stack.get j).toNat ≤ 0xFFE

/-- The quiescent loop of 70_reset_and_hazards.md R150: RUNNING, `pc` fetchable, and the word at `pc` is `0x1000 | pc`. -/
def State.quiescent (s : State) : Prop :=
  s.status = .running ∧ s.pc.toNat ≤ 0xFFE ∧
  s.mem.read s.pc.toNat = BitVec.ofNat 8 (0x10 + s.pc.toNat / 256) ∧
  s.mem.read (s.pc.toNat + 1) = BitVec.ofNat 8 (s.pc.toNat % 256)

/-! ### The tables of the whole-machine rules -/

/-- The number a four-digit pattern of 30_encoding.md R50 spells, with the fields at the places of R46. -/
def patternValue : Instr → Nat
  | .cls => 0x00E0
  | .ret => 0x00EE
  | .jp nnn => 0x1000 + nnn.toNat
  | .call nnn => 0x2000 + nnn.toNat
  | .seImm x kk => 0x3000 + x.val * 0x100 + kk.toNat
  | .sneImm x kk => 0x4000 + x.val * 0x100 + kk.toNat
  | .seReg x y => 0x5000 + x.val * 0x100 + y.val * 0x10
  | .sneReg x y => 0x9000 + x.val * 0x100 + y.val * 0x10
  | .ldImm x kk => 0x6000 + x.val * 0x100 + kk.toNat
  | .addImm x kk => 0x7000 + x.val * 0x100 + kk.toNat
  | .ldReg x y => 0x8000 + x.val * 0x100 + y.val * 0x10
  | .orReg x y => 0x8001 + x.val * 0x100 + y.val * 0x10
  | .andReg x y => 0x8002 + x.val * 0x100 + y.val * 0x10
  | .xorReg x y => 0x8003 + x.val * 0x100 + y.val * 0x10
  | .addReg x y => 0x8004 + x.val * 0x100 + y.val * 0x10
  | .subReg x y => 0x8005 + x.val * 0x100 + y.val * 0x10
  | .shr x y => 0x8006 + x.val * 0x100 + y.val * 0x10
  | .subnReg x y => 0x8007 + x.val * 0x100 + y.val * 0x10
  | .shl x y => 0x800E + x.val * 0x100 + y.val * 0x10
  | .ldI nnn => 0xA000 + nnn.toNat
  | .jpV0 nnn => 0xB000 + nnn.toNat
  | .rnd x kk => 0xC000 + x.val * 0x100 + kk.toNat
  | .drw x y n => 0xD000 + x.val * 0x100 + y.val * 0x10 + n
  | .skp x => 0xE09E + x.val * 0x100
  | .sknp x => 0xE0A1 + x.val * 0x100
  | .ldVxDT x => 0xF007 + x.val * 0x100
  | .ldVxK x => 0xF00A + x.val * 0x100
  | .ldDTVx x => 0xF015 + x.val * 0x100
  | .ldSTVx x => 0xF018 + x.val * 0x100
  | .addI x => 0xF01E + x.val * 0x100
  | .ldF x => 0xF029 + x.val * 0x100
  | .ldB x => 0xF033 + x.val * 0x100
  | .storeRegs x => 0xF055 + x.val * 0x100
  | .loadRegs x => 0xF065 + x.val * 0x100

/-- How many bytes of memory from `I` up an instruction moves (20_memory.md R36; fetch aside). -/
def dataFootprint : Instr → Nat
  | .ldB _ => 3
  | .storeRegs x => x.val + 1
  | .loadRegs x => x.val + 1
  | .drw _ _ n => n
  | _ => 0

/-- The whole footprint lies inside `mem` (20_memory.md R35): nothing is accessed, or the last address is at most 0xFFF. -/
def footprintInside (i : Instr) (s : State) : Prop := dataFootprint i = 0 ∨ s.idx.toNat + dataFootprint i ≤ 0x1000

/-- The table of 60_exceptions.md R121: the fault an instruction raises in a state, with the value recorded. -/
def faultOf (i : Instr) (s : State) : Option (FaultCause × Nat) :=
  match i with
  | .call _ => if s.sp = 16 then some (.stackOverflow, s.pc.toNat) else none
  | .ret => if s.sp = 0 then some (.stackUnderflow, s.pc.toNat) else none
  | .skp x | .sknp x => if (s.readV x).toNat > 15 then some (.keyIndexOutOfRange, (s.readV x).toNat) else none
  | _ => if dataFootprint i = 0 ∨ s.idx.toNat + dataFootprint i ≤ 0x1000 then none
         else some (.dataAddressOutOfRange, max s.idx.toNat 0x1000)

/-- The skip condition of the six conditional skips (10_state.md R15), in a state where the instruction raises nothing. -/
def skipTaken (i : Instr) (s : State) : Option Bool :=
  match i with
  | .seImm x kk => some (decide (s.readV x = kk))
  | .sneImm x kk => some (decide (s.readV x ≠ kk))
  | .seReg x y => some (decide (s.readV x = s.readV y))
  | .sneReg x y => some (decide (s.readV x ≠ s.readV y))
  | .skp x => some (s.keypad.getD (s.readV x).toNat false)
  | .sknp x => some (!s.keypad.getD (s.readV x).toNat false)
  | _ => none

/-- The table of 10_state.md R15 for an instruction that raises no fault, on naturals; `P` is the `pc` before the step. -/
def pcAfter (i : Instr) (s : State) : Nat :=
  let P := s.pc.toNat
  match i with
  | .jp nnn => nnn.toNat
  | .call nnn => nnn.toNat
  | .ret => ((s.stack.getD (s.sp.val - 1) 0).toNat + 2) % 65536
  | .jpV0 nnn => (nnn.toNat + (s.readV 0).toNat) % 65536
  | .ldVxK _ => if ∀ k : Key, s.keypad.get k = false then P else (P + 2) % 65536
  | _ =>
    match skipTaken i s with
    | some true => (P + 4) % 65536
    | _ => (P + 2) % 65536

/-- Whether an instruction may write a register: the destinations of 10_state.md R11 and the flag writers of R12. -/
def mayWrite (i : Instr) (r : Reg) : Bool :=
  match i with
  | .ldImm x _ | .addImm x _ | .ldReg x _ | .orReg x _ | .andReg x _ | .xorReg x _ | .rnd x _ => r == x
  | .ldVxDT x | .ldVxK x => r == x
  | .addReg x _ | .subReg x _ | .shr x _ | .subnReg x _ | .shl x _ => r == x || r == 15
  | .drw _ _ _ => r == 15
  | .loadRegs x => decide (r ≤ x)
  | _ => false

/-- Whether an instruction stores to an address (20_memory.md R36): Fx33 to `I..I+2`, Fx55 to `I..I+x`. -/
def storesTo (i : Instr) (s : State) (a : Nat) : Bool :=
  match i with
  | .ldB _ => decide (s.idx.toNat ≤ a ∧ a < s.idx.toNat + 3)
  | .storeRegs x => decide (s.idx.toNat ≤ a ∧ a < s.idx.toNat + (x.val + 1))
  | _ => false

/-- What an address holds after an instruction that raises nothing (43_index_memory.md R98, R99): the digits of Fx33, the registers
of Fx55, and what it held before everywhere else. -/
def byteAfter (i : Instr) (s : State) (a : Nat) : Byte :=
  match i with
  | .ldB x =>
    if a = s.idx.toNat then BitVec.ofNat 8 ((s.readV x).toNat / 100)
    else if a = s.idx.toNat + 1 then BitVec.ofNat 8 ((s.readV x).toNat / 10 % 10)
    else if a = s.idx.toNat + 2 then BitVec.ofNat 8 ((s.readV x).toNat % 10)
    else s.mem.read a
  | .storeRegs x =>
    if s.idx.toNat ≤ a ∧ a ≤ s.idx.toNat + x.val then s.V.getD (a - s.idx.toNat) 0 else s.mem.read a
  | _ => s.mem.read a

/-! ### Shapes of a completed instruction -/

/-- The outcome is a next state that differs from `s` only in `pc`, which is `target`. -/
def MovesPcOnly (o : Result) (s : State) (target : Nat) : Prop :=
  ∃ t, o = .next t ∧ t = { s with pc := t.pc } ∧ t.pc.toNat = target

/-- The outcome is a next state in which `V[x]` is `v` and `pc` is `pc + 2`; nothing else changed. -/
def WritesReg (o : Result) (s : State) (x : Reg) (v : Byte) : Prop :=
  ∃ t, o = .next t ∧ t = { s with V := t.V, pc := s.pc + 2 } ∧ t.readV x = v ∧ ∀ r, r ≠ x → t.readV r = s.readV r

/-- The outcome is a next state in which `V[15]` is the flag 0 or 1, `V[x]` is `v` unless `x` is 15 (then the flag stands there,
42_alu.md R82), and `pc` is `pc + 2`; nothing else changed. -/
def WritesRegAndFlag (o : Result) (s : State) (x : Reg) (v : Nat) (flag : Bool) : Prop :=
  ∃ t, o = .next t ∧ t = { s with V := t.V, pc := s.pc + 2 } ∧
    (t.readV 15).toNat = (if flag then 1 else 0) ∧ (x ≠ 15 → (t.readV x).toNat = v) ∧
    ∀ r, r ≠ x → r ≠ 15 → t.readV r = s.readV r

/-- The outcome is the entry into `FAULTED(cause, info)`: `status` and nothing else (R122). -/
def Raises (o : Result) (s : State) (cause : FaultCause) (info : Nat) : Prop :=
  o = .next { s with status := .faulted cause info }

/-- The sprite of a Dxyn covers a framebuffer cell (44_display.md R106, R107): some set bit of some row lands on it. -/
def spriteCovers (x y : Reg) (n : Nat) (s : State) (cell : Fin 2048) : Prop :=
  ∃ r < n, ∃ c < 8, (s.mem.read (s.idx.toNat + r)).getLsbD (7 - c) = true ∧
    cell.val = ((s.readV x).toNat % 64 + c) % 64 + ((s.readV y).toNat % 32 + r) % 32 * 64

/-- The state without the three parts no instruction reads: `draw_flag`, `sound_timer`, `diag_log` (10_state.md R20, R22, R24). -/
def State.withoutUnread (s : State) : State := { s with drawFlag := false, soundTimer := 0, diagLog := [] }

/-- The state without `draw_flag` alone: what is left must agree where nothing reads the flag (10_state.md R22). -/
def State.withoutDrawFlag (s : State) : State := { s with drawFlag := false }

/-- The state without `sound_timer` alone (10_state.md R20). -/
def State.withoutSoundTimer (s : State) : State := { s with soundTimer := 0 }

/-- The state without `diag_log` alone (10_state.md R24). -/
def State.withoutDiagLog (s : State) : State := { s with diagLog := [] }

/-- The state with the stack entries that are not live replaced by 0 (10_state.md R16). -/
def State.withoutStale (s : State) : State :=
  { s with stack := Vector.ofFn fun j : Fin 16 => if j.val < s.sp.val then s.stack.get j else 0 }

/-- A function on states carried to an outcome. -/
def Result.map (f : State → State) : Result → Result
  | .next s => .next (f s)
  | .fault r => .fault r
  | .refused r => .refused r

end Sys2Proof.Machine
end

