-- ==== Sys2Proof/Certificates/Slice0/Obligations.lean ====
section
/-!
DEFINITION. The statements about the model, from the numbered rules of spec/. A docstring names the rule or section; where a
statement rests on one of the spec's own decisions (92_eei_decisions.md D<n>) or on a choice of the model, it says so with the
log entry. The shapes `WritesReg`, `WritesRegAndFlag`, `MovesPcOnly`, `Raises` of Safety.lean all say that the outcome IS a next
state, and which one.
-/

open Sys2Proof Sys2Proof.Machine

/-! ## Encoding -/

/-- Decoding the word of a well-formed instruction gives it back, every operand at every value its field admits
(30_encoding.md sections 4 and 5). -/
def Obligations.EncodeThenDecodeGivesTheInstruction : Prop :=
  ∀ i : Instr, i.wellFormed = true → decodeWord (encode i) = some i

/-- A word that decodes is the word of the well-formed instruction it decodes to: each instruction has one word
(30_encoding.md sections 4 and 5). -/
def Obligations.DecodeThenEncodeGivesTheWord : Prop :=
  ∀ (op : Word) (i : Instr), decodeWord op = some i → i.wellFormed = true ∧ encode i = op

/-- R48: for every word, the rows of the opcode map whose mask and match accept it are exactly the one row of the instruction
the decoder gives, and none where the decoder gives none. -/
def Obligations.ExactlyOneTableRowAcceptsADecodedWord : Prop :=
  ∀ op : Word, opcodeTable.filter (fun r => r.accepts op) = ((decodeWord op).map Instr.row).toList

/-- The words that are not instructions, by the table of 30_encoding.md section 6 (the full-width secondary decode is the spec's
decision D9, log 12). -/
def Obligations.UnrecognisedWordsAreTheListedOnes : Prop :=
  ∀ op : Word, decodeWord op = none ↔
    (op.toNat / 0x1000 = 0x0 ∧ op.toNat ≠ 0x00E0 ∧ op.toNat ≠ 0x00EE) ∨
    (op.toNat / 0x1000 = 0x5 ∧ op.toNat % 16 ≠ 0) ∨
    (op.toNat / 0x1000 = 0x8 ∧ op.toNat % 16 ∈ [8, 9, 0xA, 0xB, 0xC, 0xD, 0xF]) ∨
    (op.toNat / 0x1000 = 0x9 ∧ op.toNat % 16 ≠ 0) ∨
    (op.toNat / 0x1000 = 0xE ∧ op.toNat % 256 ≠ 0x9E ∧ op.toNat % 256 ≠ 0xA1) ∨
    (op.toNat / 0x1000 = 0xF ∧ op.toNat % 256 ∉ [0x07, 0x0A, 0x15, 0x18, 0x1E, 0x29, 0x33, 0x55, 0x65])

/-- Every well-formed instruction encodes to the number its four-digit pattern spells: the fields at the places of
30_encoding.md sections 2 and 5. -/
def Obligations.EncodingSpellsThePattern : Prop :=
  ∀ i : Instr, i.wellFormed = true → (encode i).toNat = patternValue i

/-- Words written out from the encodings of R50, at least one of each of the sixteen families, decode to the instruction they stand for
(30_encoding.md section 5); and 0x5121, which differs from a row in its last fixed digit only, is no instruction (sections 4 and 6:
the full-width secondary decode is the spec's decision D9, log 12). -/
def Obligations.SampleWordsDecodeAsThePatternsSay : Prop :=
  decodeWord 0b0000000011100000#16 = some .cls ∧
  decodeWord 0b0000000011101110#16 = some .ret ∧
  decodeWord 0b0001101010111100#16 = some (.jp 0xABC) ∧
  decodeWord 0b0010001000001010#16 = some (.call 0x20A) ∧
  decodeWord 0b0011001100101010#16 = some (.seImm 3 0x2A) ∧
  decodeWord 0b0100001100101011#16 = some (.sneImm 3 0x2B) ∧
  decodeWord 0b0101000100100000#16 = some (.seReg 1 2) ∧
  decodeWord 0b0110101000111100#16 = some (.ldImm 10 0x3C) ∧
  decodeWord 0b0111001001100100#16 = some (.addImm 2 0x64) ∧
  decodeWord 0b1000000100100100#16 = some (.addReg 1 2) ∧
  decodeWord 0b1001000100100000#16 = some (.sneReg 1 2) ∧
  decodeWord 0b1010001011110000#16 = some (.ldI 0x2F0) ∧
  decodeWord 0b1011001111111111#16 = some (.jpV0 0x3FF) ∧
  decodeWord 0b1100000100001111#16 = some (.rnd 1 0x0F) ∧
  decodeWord 0b1101000000010101#16 = some (.drw 0 1 5) ∧
  decodeWord 0b1110001110011110#16 = some (.skp 3) ∧
  decodeWord 0b1111111101100101#16 = some (.loadRegs 15) ∧
  decodeWord 0b0101000100100001#16 = none

/-! ## The step -/

/-- A `Step` of a RUNNING core whose `pc` is fetchable runs exactly the instruction the two bytes at `pc` decode to, high byte
first; nothing is added around it (40_step_cycle.md section 1). -/
def Obligations.StepRunsTheDecodedInstruction : Prop :=
  ∀ (s : State) (i : Instr), s.status = .running → s.pc.toNat ≤ 0xFFE →
    decodeWord (s.mem.read s.pc.toNat ++ s.mem.read (s.pc.toNat + 1)) = some i → step s = exec i s

/-- An unrecognised word appends one record and advances `pc` by 2; nothing else changes, and it is a normal step. The word 0x0000 is
unrecognised (40_step_cycle.md section 2, rule R64; the record is the spec's own form, decision D23, log 15). -/
def Obligations.UnrecognisedWordIsLoggedAndSkipped : Prop :=
  (∀ (s : State) (op : Word), s.status = .running → s.pc.toNat ≤ 0xFFE →
    s.mem.read s.pc.toNat ++ s.mem.read (s.pc.toNat + 1) = op → decodeWord op = none →
    ∃ t, step s = .next t ∧ t = { s with diagLog := s.diagLog ++ [.unknownOpcode op s.pc], pc := t.pc } ∧
      t.pc.toNat = s.pc.toNat + 2) ∧
  decodeWord 0x0000#16 = none

/-- When a `Step` of a RUNNING core faults, and with which cause and value: the fetch beyond 0xFFE first, then the table of
60_exceptions.md section 2 for the decoded instruction, never for an unrecognised word (sections 2 and 4; the fault causes are the
spec's decisions D3, D4, D5, D7, D8, log 8). -/
def Obligations.StepFaultsExactlyWhenTheTableSays : Prop :=
  ∀ s t : State, s.status = .running → step s = .next t →
    t.status =
      (if s.pc.toNat > 0xFFE then .faulted .fetchOutOfRange s.pc.toNat
       else match decodeWord (s.mem.read s.pc.toNat ++ s.mem.read (s.pc.toNat + 1)) with
        | none => .running
        | some i => match faultOf i s with
          | none => .running
          | some (cause, info) => .faulted cause info)

/-- Faults are precise: a `Step` that leaves RUNNING changes `status` and nothing else (40_step_cycle.md section 3; the spec's
decision D8, log 1). -/
def Obligations.AFaultingStepChangesOnlyStatus : Prop :=
  ∀ s t : State, s.status = .running → step s = .next t → t.status ≠ .running → t = { s with status := t.status }

/-- FAULTED is sticky: a `Step` changes nothing, the other host operations have no transition, and `Init` returns the core to
RUNNING (60_exceptions.md section 3, 40_step_cycle.md section 3; the spec's decision D8, logs 1 and 9). -/
def Obligations.FaultedIsLeftOnlyByInit : Prop :=
  ∀ (s : State) (cause : FaultCause) (info : Nat), s.status = .faulted cause info →
    step s = .next s ∧ tick s = .refused .whileFaulted ∧ clearDrawFlag s = .refused .whileFaulted ∧
    (∀ k b, setKey k b s = .refused .whileFaulted) ∧ (∀ bytes, load bytes s = .refused .whileFaulted) ∧
    (init s).status = .running

/-- A `Step` of a RUNNING core always answers a next state, whatever the state and the word at `pc`: no report and no refusal
(40_step_cycle.md sections 1 and 2). That a `Step` which raises, and so is abandoned (60_exceptions.md section 3), answers a next
state too, with `status` FAULTED, is the model's choice (log 1, DEDUCED from the spec's decision D8). -/
def Obligations.ARunningCoreAlwaysSteps : Prop :=
  ∀ s : State, s.status = .running → ∃ t, step s = .next t ∧ t.status ≠ .notStarted

/-- A word stored big-endian at a fetchable `pc` is the word the next `Step` fetches and runs (20_memory.md sections 2 and 7). -/
def Obligations.AWordPlacedAtPcIsTheNextInstruction : Prop :=
  ∀ (s : State) (op : Word) (i : Instr), s.mem.wf = true → s.status = .running → s.pc.toNat ≤ 0xFFE → decodeWord op = some i →
    (s.placeWord op).mem.read s.pc.toNat = BitVec.ofNat 8 (op.toNat / 256) ∧
    (s.placeWord op).mem.read (s.pc.toNat + 1) = BitVec.ofNat 8 (op.toNat % 256) ∧
    step (s.placeWord op) = exec i (s.placeWord op)

/-! ## Control flow -/

/-- R71 and R74: 1nnn goes to its address; Bnnn to `nnn + V[0]`, not masked to 12 bits, `V[0]` whatever the word's bits 11..8 are. -/
def Obligations.JumpsGoToTheirTargets : Prop :=
  ∀ (nnn : Addr12) (s : State),
    decodeWord (BitVec.ofNat 16 (0x1000 + nnn.toNat)) = some (.jp nnn) ∧
    MovesPcOnly (exec (.jp nnn) s) s nnn.toNat ∧
    decodeWord (BitVec.ofNat 16 (0xB000 + nnn.toNat)) = some (.jpV0 nnn) ∧
    MovesPcOnly (exec (.jpV0 nnn) s) s (nnn.toNat + (s.readV 0).toNat)

/-- 2nnn: pushes the address of the CALL itself and jumps; with 16 live entries it faults and writes nothing (41_control_flow.md
section 2; StackOverflow is the spec's decision D5, the slot D6, logs 7 and 8). -/
def Obligations.CallPushesItsOwnAddress : Prop :=
  ∀ (nnn : Addr12) (s : State), decodeWord (BitVec.ofNat 16 (0x2000 + nnn.toNat)) = some (.call nnn) ∧
    (s.sp.val < 16 → ∃ t, exec (.call nnn) s = .next t ∧
      t = { s with stack := t.stack, sp := t.sp, pc := t.pc } ∧
      t.pc.toNat = nnn.toNat ∧ t.sp.val = s.sp.val + 1 ∧
      (∀ j : Fin 16, t.stack.get j = if j.val = s.sp.val then s.pc else s.stack.get j)) ∧
    (s.sp.val = 16 → Raises (exec (.call nnn) s) s .stackOverflow s.pc.toNat)

/-- 00EE: pops, and `pc` is the popped value plus 2; the stack's slots keep their values; on an empty stack it faults
(41_control_flow.md section 2; StackUnderflow is the spec's decision D5, logs 7 and 8). -/
def Obligations.ReturnPopsAndAddsTwo : Prop :=
  decodeWord 0b0000000011101110#16 = some .ret ∧ ∀ s : State,
    (∀ j : Fin 16, s.sp.val = j.val + 1 → ∃ t, exec .ret s = .next t ∧
      t = { s with sp := t.sp, pc := t.pc } ∧ t.sp.val = j.val ∧
      t.pc.toNat = ((s.stack.get j).toNat + 2) % 65536) ∧
    (s.sp.val = 0 → Raises (exec .ret s) s .stackUnderflow s.pc.toNat)

/-- "`2nnn` followed immediately by `00EE` returns `pc` to the instruction right after the original call (call-site+2), and leaves
`sp` unchanged": and every register, all of memory and every live stack entry too (41_control_flow.md section 2; 95_test_vectors.md
S8). -/
def Obligations.CallThenReturnComesBackAfterTheCall : Prop :=
  ∀ (nnn : Addr12) (s : State), s.sp.val < 16 →
    ∃ t u, exec (.call nnn) s = .next t ∧ exec .ret t = .next u ∧
      u = { s with stack := u.stack, pc := s.pc + 2 } ∧
      (∀ j : Fin 16, j.val < s.sp.val → u.stack.get j = s.stack.get j)

/-- R75 and R76: the skips that compare a register with an immediate. -/
def Obligations.ImmediateSkipsCompareAndSkip : Prop :=
  ∀ (x : Reg) (kk : Byte) (s : State),
    decodeWord (BitVec.ofNat 16 (0x3000 + x.val * 0x100 + kk.toNat)) = some (.seImm x kk) ∧
    MovesPcOnly (exec (.seImm x kk) s) s (if s.readV x = kk then (s.pc.toNat + 4) % 65536 else (s.pc.toNat + 2) % 65536) ∧
    decodeWord (BitVec.ofNat 16 (0x4000 + x.val * 0x100 + kk.toNat)) = some (.sneImm x kk) ∧
    MovesPcOnly (exec (.sneImm x kk) s) s (if s.readV x ≠ kk then (s.pc.toNat + 4) % 65536 else (s.pc.toNat + 2) % 65536)

/-- R77 and R78: the skips that compare two registers. -/
def Obligations.RegisterSkipsCompareAndSkip : Prop :=
  ∀ (x y : Reg) (s : State),
    decodeWord (BitVec.ofNat 16 (0x5000 + x.val * 0x100 + y.val * 0x10)) = some (.seReg x y) ∧
    MovesPcOnly (exec (.seReg x y) s) s (if s.readV x = s.readV y then (s.pc.toNat + 4) % 65536 else (s.pc.toNat + 2) % 65536) ∧
    decodeWord (BitVec.ofNat 16 (0x9000 + x.val * 0x100 + y.val * 0x10)) = some (.sneReg x y) ∧
    MovesPcOnly (exec (.sneReg x y) s) s (if s.readV x ≠ s.readV y then (s.pc.toNat + 4) % 65536 else (s.pc.toNat + 2) % 65536)

/-! ## Loads, arithmetic, logic, random -/

/-- R80 and R83: 6xkk loads its immediate, 8xy0 copies `V[y]`; no flag is written. -/
def Obligations.RegisterLoadsWriteTheirRegister : Prop :=
  ∀ (x y : Reg) (kk : Byte) (s : State),
    decodeWord (BitVec.ofNat 16 (0x6000 + x.val * 0x100 + kk.toNat)) = some (.ldImm x kk) ∧
    WritesReg (exec (.ldImm x kk) s) s x kk ∧
    decodeWord (BitVec.ofNat 16 (0x8000 + x.val * 0x100 + y.val * 0x10)) = some (.ldReg x y) ∧
    WritesReg (exec (.ldReg x y) s) s x (s.readV y)

/-- 7xkk adds mod 256; 8xy1, 8xy2, 8xy3 are OR, AND, XOR bit by bit; none writes a flag (42_alu.md sections 2 and 3; that `V[15]` is
left alone is the spec's decision D28, log 14). -/
def Obligations.AddImmediateAndLogicWriteNoFlag : Prop :=
  ∀ (x y : Reg) (kk : Byte) (s : State),
    (∃ v, WritesReg (exec (.addImm x kk) s) s x v ∧ v.toNat = ((s.readV x).toNat + kk.toNat) % 256) ∧
    (∃ v, WritesReg (exec (.orReg x y) s) s x v ∧
      ∀ b < 8, v.getLsbD b = ((s.readV x).getLsbD b || (s.readV y).getLsbD b)) ∧
    (∃ v, WritesReg (exec (.andReg x y) s) s x v ∧
      ∀ b < 8, v.getLsbD b = ((s.readV x).getLsbD b && (s.readV y).getLsbD b)) ∧
    (∃ v, WritesReg (exec (.xorReg x y) s) s x v ∧
      ∀ b < 8, v.getLsbD b = ((s.readV x).getLsbD b ^^ (s.readV y).getLsbD b))

/-- 8xy4: sum mod 256 to `V[x]`, carry to `V[15]`, the flag last (42_alu.md sections 1 and 3; the write order is the spec's
decision D11, log 6). -/
def Obligations.AddLeavesSumAndCarry : Prop :=
  ∀ (x y : Reg) (s : State),
    WritesRegAndFlag (exec (.addReg x y) s) s x
      (((s.readV x).toNat + (s.readV y).toNat) % 256) (decide (255 < (s.readV x).toNat + (s.readV y).toNat))

/-- 8xy5 and 8xy7: difference mod 256 to `V[x]`, not-borrow to `V[15]`, 1 for equal operands (42_alu.md sections 1 and 3; the
spec's decisions D11 and D12, log 6). -/
def Obligations.SubtractionsLeaveDifferenceAndNotBorrow : Prop :=
  ∀ (x y : Reg) (s : State),
    WritesRegAndFlag (exec (.subReg x y) s) s x
      (((s.readV x).toNat - (s.readV y).toNat : Int) % 256).toNat (decide ((s.readV y).toNat ≤ (s.readV x).toNat)) ∧
    WritesRegAndFlag (exec (.subnReg x y) s) s x
      (((s.readV y).toNat - (s.readV x).toNat : Int) % 256).toNat (decide ((s.readV x).toNat ≤ (s.readV y).toNat))

/-- 8xy6 and 8xyE shift `V[x]` by one, zero fill, the bit moved out to `V[15]`, `y` ignored (42_alu.md section 3; which register is
shifted is the spec's decision D10, log 4; the write order D11, log 6). -/
def Obligations.ShiftsMoveOneBitIntoTheFlag : Prop :=
  ∀ (x y : Reg) (s : State),
    WritesRegAndFlag (exec (.shr x y) s) s x ((s.readV x).toNat / 2) (decide ((s.readV x).toNat % 2 = 1)) ∧
    WritesRegAndFlag (exec (.shl x y) s) s x ((s.readV x).toNat * 2 % 256) (decide (128 ≤ (s.readV x).toNat))

/-- Cxkk: a random byte masked with `kk`, every bit outside `kk` 0, nothing else of the machine changed; the byte is the free
value named by `freeIndex`, which moves on so that the next draw is a fresh one (42_alu.md section 4; the free value is log 2). -/
def Obligations.RandomIsADrawnByteUnderTheMask : Prop :=
  ∀ (x : Reg) (kk : Byte) (s : State), decodeWord (BitVec.ofNat 16 (0xC000 + x.val * 0x100 + kk.toNat)) = some (.rnd x kk) ∧
    ∃ t, exec (.rnd x kk) s = .next t ∧
      t = { s with V := t.V, pc := s.pc + 2, freeIndex := s.freeIndex + 1 } ∧
      t.readV x = Config.freeByte s.freeIndex &&& kk ∧
      (∀ b < 8, kk.getLsbD b = false → (t.readV x).getLsbD b = false) ∧
      ∀ r, r ≠ x → t.readV r = s.readV r

/-! ## Index and memory -/

/-- R95: Annn sets `I` to its twelve-bit address, so bits 15:12 of `I` become 0; nothing else changes but `pc`. -/
def Obligations.LoadIndexSetsTwelveBits : Prop :=
  ∀ (nnn : Addr12) (s : State), decodeWord (BitVec.ofNat 16 (0xA000 + nnn.toNat)) = some (.ldI nnn) ∧
    ∃ t, exec (.ldI nnn) s = .next t ∧ t = { s with idx := t.idx, pc := s.pc + 2 } ∧ t.idx.toNat = nnn.toNat

/-- Fx1E and Fx29 set `I`: the sum mod 65536 without a mask and without a flag, and the glyph address without a mask of `V[x]`
(43_index_memory.md section 2; the spec's decisions D18 and D28, log 14). -/
def Obligations.IndexArithmeticIsUnmasked : Prop :=
  ∀ (x : Reg) (s : State),
    (∃ t, exec (.addI x) s = .next t ∧ t = { s with idx := t.idx, pc := s.pc + 2 } ∧
      t.idx.toNat = (s.idx.toNat + (s.readV x).toNat) % 65536) ∧
    (∃ t, exec (.ldF x) s = .next t ∧ t = { s with idx := t.idx, pc := s.pc + 2 } ∧
      t.idx.toNat = 0x050 + 5 * (s.readV x).toNat)

/-- Fx33: the three decimal digits at `I`, `I+1`, `I+2`, whose weighted sum is `V[x]`; every other byte and `I` unchanged; or the
fault and nothing written (43_index_memory.md section 3; the fault is the spec's decision D3, log 8; `I` unchanged D28, log 14). -/
def Obligations.BcdStoresThreeDigits : Prop :=
  ∀ (x : Reg) (s : State), s.mem.wf = true →
    (s.idx.toNat + 2 ≤ 0xFFF → ∃ t, exec (.ldB x) s = .next t ∧ t = { s with mem := t.mem, pc := s.pc + 2 } ∧
      (∃ h d o : Nat, h ≤ 2 ∧ d ≤ 9 ∧ o ≤ 9 ∧ (s.readV x).toNat = 100 * h + 10 * d + o ∧
        (t.mem.read s.idx.toNat).toNat = h ∧ (t.mem.read (s.idx.toNat + 1)).toNat = d ∧
        (t.mem.read (s.idx.toNat + 2)).toNat = o) ∧
      ∀ a, ¬ (s.idx.toNat ≤ a ∧ a < s.idx.toNat + 3) → t.mem.read a = s.mem.read a) ∧
    (s.idx.toNat + 2 > 0xFFF → Raises (exec (.ldB x) s) s .dataAddressOutOfRange (max s.idx.toNat 0x1000))

/-- Fx55: `V[0..x]` to `I..I+x`, then `I` up by `x + 1`; registers and every other byte unchanged; or the fault and nothing written
(43_index_memory.md section 3; the fault is the spec's decision D3, log 8). -/
def Obligations.StoreCopiesRegistersToMemory : Prop :=
  ∀ (x : Reg) (s : State), s.mem.wf = true →
    (s.idx.toNat + x.val ≤ 0xFFF → ∃ t, exec (.storeRegs x) s = .next t ∧
      t = { s with mem := t.mem, idx := t.idx, pc := s.pc + 2 } ∧ t.idx.toNat = s.idx.toNat + x.val + 1 ∧
      (∀ k : Reg, k ≤ x → t.mem.read (s.idx.toNat + k.val) = s.readV k) ∧
      ∀ a, ¬ (s.idx.toNat ≤ a ∧ a < s.idx.toNat + (x.val + 1)) → t.mem.read a = s.mem.read a) ∧
    (s.idx.toNat + x.val > 0xFFF → Raises (exec (.storeRegs x) s) s .dataAddressOutOfRange (max s.idx.toNat 0x1000))

/-- Fx65: `V[0..x]` from `I..I+x`, then `I` up by `x + 1`; registers above `x` and all of memory unchanged; or the fault and nothing
written (43_index_memory.md section 3; the fault is the spec's decision D3, log 8). -/
def Obligations.LoadCopiesMemoryToRegisters : Prop :=
  ∀ (x : Reg) (s : State),
    (s.idx.toNat + x.val ≤ 0xFFF → ∃ t, exec (.loadRegs x) s = .next t ∧
      t = { s with V := t.V, idx := t.idx, pc := s.pc + 2 } ∧ t.idx.toNat = s.idx.toNat + x.val + 1 ∧
      (∀ k : Reg, k ≤ x → t.readV k = s.mem.read (s.idx.toNat + k.val)) ∧ ∀ k : Reg, x < k → t.readV k = s.readV k) ∧
    (s.idx.toNat + x.val > 0xFFF → Raises (exec (.loadRegs x) s) s .dataAddressOutOfRange (max s.idx.toNat 0x1000))

/-- A store is what the very next fetch sees, whichever bytes of the next instruction it wrote, none, one or both: no cache, no barrier.
After any instruction that leaves the core RUNNING the next fetch reads, high byte first, the bytes the instruction stored (the digits of
Fx33, the registers of Fx55) and the old bytes elsewhere, and the next `Step` does what that word says (20_memory.md sections 2 and 7,
70_reset_and_hazards.md section 3). A word that no row accepts appends the record (UnknownOpcode, op, pc) and adds 2 to `pc`
(40_step_cycle.md section 2; the record's form is decision D23, log 15, DESIGN CHOICE). -/
def Obligations.SelfModifiedCodeIsFetched : Prop :=
  ∀ (j : Instr) (s t : State) (op : Word), s.mem.wf = true → exec j s = .next t → t.status = .running → t.pc.toNat ≤ 0xFFE →
    op = byteAfter j s t.pc.toNat ++ byteAfter j s (t.pc.toNat + 1) →
    t.fetchWord = op ∧ (∀ i, decodeWord op = some i → step t = exec i t) ∧
    (decodeWord op = none → step t = .next { t with diagLog := t.diagLog ++ [.unknownOpcode op t.pc], pc := t.pc + 2 })

/-! ## Display -/

/-- R105: 00E0 sets all 2048 cells to 0 and the draw flag to 1, whatever they were; nothing else changes but `pc`. -/
def Obligations.ClearBlanksTheScreenAndSetsTheFlag : Prop :=
  decodeWord 0b0000000011100000#16 = some .cls ∧ ∀ s : State,
    ∃ t, exec .cls s = .next t ∧ t = { s with gfx := t.gfx, drawFlag := true, pc := s.pc + 2 } ∧
      ∀ c : Fin 2048, t.gfx.get c = false

/-- Dxyn refines the pixel rule: a cell flips exactly when a set sprite bit lands on it, with wrap-around; `V[15]` is 1 exactly when
such a cell was set before, else 0; the draw flag is set; `I`, memory and the other registers are unchanged (44_display.md sections 2
and 3; bit order D16, log 13; latched coordinates D11, log 6; `n = 0` D25, log 14). -/
def Obligations.DrawFlipsExactlyTheCoveredCells : Prop :=
  ∀ (x y : Reg) (n : Nat) (s : State), (Instr.drw x y n).wellFormed = true → footprintInside (.drw x y n) s →
    ∃ t, exec (.drw x y n) s = .next t ∧
      t = { s with V := t.V, gfx := t.gfx, drawFlag := true, pc := s.pc + 2 } ∧
      (∀ r : Reg, r ≠ 15 → t.readV r = s.readV r) ∧
      (∀ c : Fin 2048, (spriteCovers x y n s c → t.gfx.get c = !s.gfx.get c) ∧
        (¬ spriteCovers x y n s c → t.gfx.get c = s.gfx.get c)) ∧
      ((∃ c : Fin 2048, spriteCovers x y n s c ∧ s.gfx.get c = true) → t.readV 15 = 1) ∧
      ((¬ ∃ c : Fin 2048, spriteCovers x y n s c ∧ s.gfx.get c = true) → t.readV 15 = 0)

/-- Drawing the same sprite twice at the same location restores the screen; on a blank background the first draw reports no
collision and the second reports one exactly when the sprite has a set bit (44_display.md section 3, R108's premise that the second
draw is at the same location stated as a hypothesis, since `V[15]` may be a coordinate). -/
def Obligations.DrawingTwiceRestoresTheScreen : Prop :=
  ∀ (x y : Reg) (n : Nat) (s t : State), (Instr.drw x y n).wellFormed = true → footprintInside (.drw x y n) s →
    exec (.drw x y n) s = .next t → (t.readV x).toNat % 64 = (s.readV x).toNat % 64 →
    (t.readV y).toNat % 32 = (s.readV y).toNat % 32 →
    ∃ u, exec (.drw x y n) t = .next u ∧ u.gfx = s.gfx ∧
      ((∀ c : Fin 2048, s.gfx.get c = false) → t.readV 15 = 0 ∧
        u.readV 15 = if ∃ r < n, s.mem.read (s.idx.toNat + r) ≠ 0 then 1 else 0)

/-! ## Keypad and timers -/

/-- Ex9E and ExA1 test the level of the key whose index is the value `V[x]`; an index above 15 faults (45_keypad_timer_instr.md
section 2; KeyIndexOutOfRange is the spec's decision D7, log 8). -/
def Obligations.KeySkipsTestTheLevel : Prop :=
  ∀ (x : Reg) (s : State),
    (∀ k : Key, (s.readV x).toNat = k.val →
      MovesPcOnly (exec (.skp x) s) s (if s.keypad.get k = true then (s.pc.toNat + 4) % 65536 else (s.pc.toNat + 2) % 65536) ∧
      MovesPcOnly (exec (.sknp x) s) s (if s.keypad.get k = false then (s.pc.toNat + 4) % 65536 else (s.pc.toNat + 2) % 65536)) ∧
    ((s.readV x).toNat > 15 →
      Raises (exec (.skp x) s) s .keyIndexOutOfRange (s.readV x).toNat ∧
      Raises (exec (.sknp x) s) s .keyIndexOutOfRange (s.readV x).toNat)

/-- Fx0A: with no key down nothing changes, not even `pc`; with a key down `V[x]` gets the index of some pressed key and `pc`
advances; nothing else of the machine changes (45_keypad_timer_instr.md section 3; which of several keys is the spec's open choice
D13, log 3). -/
def Obligations.KeyWaitIdlesUntilAKeyIsDown : Prop :=
  ∀ (x : Reg) (s : State),
    ((∀ k : Key, s.keypad.get k = false) → exec (.ldVxK x) s = .next s) ∧
    ((∃ k : Key, s.keypad.get k = true) → ∃ t, exec (.ldVxK x) s = .next t ∧
      t = { s with V := t.V, pc := s.pc + 2, freeIndex := t.freeIndex } ∧
      (∃ k : Key, s.keypad.get k = true ∧ (t.readV x).toNat = k.val) ∧
      ∀ r, r ≠ x → t.readV r = s.readV r)

/-- Fx07 reads the delay timer, Fx15 sets it, Fx18 sets the sound timer; nothing else changes (45_keypad_timer_instr.md section 4;
the assignment of the three words is the spec's decision D17 from general knowledge, log 13). -/
def Obligations.TimerInstructionsMoveTheTimers : Prop :=
  ∀ (x : Reg) (s : State),
    WritesReg (exec (.ldVxDT x) s) s x s.delayTimer ∧
    (∃ t, exec (.ldDTVx x) s = .next t ∧ t = { s with delayTimer := s.readV x, pc := s.pc + 2 }) ∧
    (∃ t, exec (.ldSTVx x) s = .next t ∧ t = { s with soundTimer := s.readV x, pc := s.pc + 2 })

/-! ## Whole-machine rules -/

/-- How each instruction leaves `pc`: the table of 10_state.md section 4 for an instruction that raises nothing, and `P` for one
that faults (the faults are the spec's decisions, log 8). -/
def Obligations.PcFollowsTheTable : Prop :=
  ∀ (i : Instr) (s : State),
    (faultOf i s = none → ∃ t, exec i s = .next t ∧ t.pc.toNat = pcAfter i s) ∧
    (∀ cause info, faultOf i s = some (cause, info) → Raises (exec i s) s cause info)

/-- Frame of the registers: an instruction writes only its destination and, for the flag writers, `V[15]`
(10_state.md sections 2 and 3; that the others leave `V[15]` alone is the spec's decision D28, log 14). -/
def Obligations.OnlyDestinationAndFlagRegistersChange : Prop :=
  ∀ (i : Instr) (s t : State) (r : Reg), exec i s = .next t → mayWrite i r = false → t.readV r = s.readV r

/-- Frame of memory: every byte outside the bytes an instruction stores to reads as before; only Fx33 and Fx55 store
(20_memory.md section 5, 43_index_memory.md section 1). -/
def Obligations.OnlyStoredBytesChange : Prop :=
  ∀ (i : Instr) (s t : State), s.mem.wf = true → exec i s = .next t →
    ∀ a, storesTo i s a = false → t.mem.read a = s.mem.read a

/-- Frame of the special registers: `I` is written only by Annn, Fx1E, Fx29, Fx55, Fx65; the stack and `sp` only by 2nnn and 00EE,
and 00EE leaves the slots (10_state.md sections 5 and 6). That Dxyn and Fx33 leave `I` alone is the spec's decision D28 (log 14), that
00EE leaves the slots its decision D6 (log 7). -/
def Obligations.IndexAndStackChangeOnlyByTheirInstructions : Prop :=
  ∀ (i : Instr) (s t : State), exec i s = .next t →
    (match i with
      | .ldI _ | .addI _ | .ldF _ | .storeRegs _ | .loadRegs _ => True
      | _ => t.idx = s.idx) ∧
    (match i with
      | .call _ => True
      | _ => t.stack = s.stack) ∧
    (match i with
      | .call _ | .ret => True
      | _ => t.sp = s.sp)

/-- R69: no `Step` changes a timer except through Fx15 and Fx18, and none clears the draw flag. -/
def Obligations.StepNeverTicksAndNeverClearsTheDrawFlag : Prop :=
  ∀ s t : State, step s = .next t →
    (t.delayTimer ≠ s.delayTimer → ∃ x, decodeWord s.fetchWord = some (.ldDTVx x)) ∧
    (t.soundTimer ≠ s.soundTimer → ∃ x, decodeWord s.fetchWord = some (.ldSTVx x)) ∧
    (s.drawFlag = true → t.drawFlag = true)

/-- R22: the draw flag is set by every `Step` that completes a 00E0 or a Dxyn, whether or not a cell changed, and by no other; it is cleared by
`Init` and `ClearDrawFlag` and by nothing else; no instruction reads it. -/
def Obligations.DrawFlagIsSetOnlyByDrawingAndClearedOnlyByTheHost : Prop :=
  (∀ s t : State, step s = .next t →
    t.drawFlag = if t.status = .running then
      (match decodeWord s.fetchWord with
        | some .cls | some (.drw _ _ _) => true
        | _ => s.drawFlag)
      else s.drawFlag) ∧
  (∀ s t : State, tick s = .next t → t.drawFlag = s.drawFlag) ∧
  (∀ (k : Nat) (b : Bool) (s t : State), setKey k b s = .next t → t.drawFlag = s.drawFlag) ∧
  (∀ (bytes : List Byte) (s t : State), load bytes s = .next t → t.drawFlag = s.drawFlag) ∧
  (∀ s : State, (init s).drawFlag = false) ∧
  (∀ s t : State, clearDrawFlag s = .next t → t.drawFlag = false) ∧
  (∀ (i : Instr) (s : State) (b : Bool),
    Result.map State.withoutDrawFlag (exec i { s with drawFlag := b }) = Result.map State.withoutDrawFlag (exec i s))

/-- R109: no `Step` of another instruction than 00E0 and Dxyn, and no host operation but `Init`, writes the framebuffer; a `Step` never
reads the draw flag, so it never waits for the renderer. -/
def Obligations.FramebufferIsMutatedOnlyByClearAndDraw : Prop :=
  (∀ s t : State, step s = .next t → t.gfx ≠ s.gfx →
    decodeWord s.fetchWord = some .cls ∨ ∃ x y n, decodeWord s.fetchWord = some (.drw x y n)) ∧
  (∀ s t : State, tick s = .next t → t.gfx = s.gfx) ∧
  (∀ (k : Nat) (b : Bool) (s t : State), setKey k b s = .next t → t.gfx = s.gfx) ∧
  (∀ (bytes : List Byte) (s t : State), load bytes s = .next t → t.gfx = s.gfx) ∧
  (∀ s t : State, clearDrawFlag s = .next t → t.gfx = s.gfx) ∧
  (∀ (s : State) (b : Bool),
    Result.map State.withoutDrawFlag (step { s with drawFlag := b }) = Result.map State.withoutDrawFlag (step s))

/-- The writers and readers of the keypad: no `Step` writes it, and only Ex9E, ExA1 and Fx0A read it; likewise only Fx07 reads the delay
timer (10_state.md sections 5 and 6). -/
def Obligations.KeypadAndDelayTimerAreReadOnlyByTheirInstructions : Prop :=
  (∀ s t : State, step s = .next t → t.keypad = s.keypad) ∧
  (∀ (i : Instr) (s : State) (keys : Vector Bool 16),
    (match i with
      | .skp _ | .sknp _ | .ldVxK _ => True
      | _ => exec i { s with keypad := keys } = Result.map (fun t => { t with keypad := keys }) (exec i s))) ∧
  (∀ (i : Instr) (s : State) (v : Byte),
    (match i with
      | .ldVxDT _ => True
      | .ldDTVx _ => exec i { s with delayTimer := v } = exec i s
      | _ => exec i { s with delayTimer := v } = Result.map (fun t => { t with delayTimer := v }) (exec i s)))

/-- No instruction reads the draw flag, the sound timer or the diagnostic log: two states that differ only in one of the three step to
states that differ only in that one, so it flows neither into the rest of the machine nor into the other two; and two states that differ
in all three step to states that differ only there (10_state.md sections 5 and 12). -/
def Obligations.UnreadStateNeverFlowsIntoARun : Prop :=
  ∀ s₁ s₂ : State,
    (s₁.withoutDrawFlag = s₂.withoutDrawFlag →
      Result.map State.withoutDrawFlag (step s₁) = Result.map State.withoutDrawFlag (step s₂)) ∧
    (s₁.withoutSoundTimer = s₂.withoutSoundTimer →
      Result.map State.withoutSoundTimer (step s₁) = Result.map State.withoutSoundTimer (step s₂)) ∧
    (s₁.withoutDiagLog = s₂.withoutDiagLog →
      Result.map State.withoutDiagLog (step s₁) = Result.map State.withoutDiagLog (step s₂)) ∧
    (s₁.withoutUnread = s₂.withoutUnread →
      Result.map State.withoutUnread (step s₁) = Result.map State.withoutUnread (step s₂))

/-- Stack entries that are not live are unobservable: two states that differ only there step to states that differ only there
(10_state.md section 6, the spec's inference from R72 and R73). -/
def Obligations.StaleStackEntriesNeverFlowIntoARun : Prop :=
  ∀ s₁ s₂ : State, s₁.withoutStale = s₂.withoutStale →
    Result.map State.withoutStale (step s₁) = Result.map State.withoutStale (step s₂)

/-- The diagnostic log only grows, by at most one record a step, and that record is the unrecognised word and its address
(10_state.md section 5; the form of the log is the spec's decision D23, log 15). -/
def Obligations.DiagnosticLogOnlyGrows : Prop :=
  ∀ s t : State, step s = .next t →
    t.diagLog = s.diagLog ∨
    (t.diagLog = s.diagLog ++ [.unknownOpcode (s.mem.read s.pc.toNat ++ s.mem.read (s.pc.toNat + 1)) s.pc] ∧
      decodeWord (s.mem.read s.pc.toNat ++ s.mem.read (s.pc.toNat + 1)) = none)

/-- A quiescent loop is a fixed point: every further `Step` leaves every piece of state unchanged (70_reset_and_hazards.md section 4;
the definition of "finished" is the spec's decision D21). -/
def Obligations.AQuiescentLoopNeverMoves : Prop :=
  ∀ s : State, s.quiescent → step s = .next s

/-- The invariant at reset: memory in canonical form (the form is the model's, log 17), `pc` at most 0x10FE, live stack entries fetchable
(10_state.md section 4, 41_control_flow.md section 2). -/
def Obligations.ResetMeetsTheInvariant : Prop := State.reset.Inv

/-- Every step keeps the invariant, from every state that meets it: memory in canonical form (log 17), `pc` at most 0x10FE, every live
stack entry a fetchable address (10_state.md section 4, 41_control_flow.md section 2, the spec's inferences of R14 and R73). -/
def Obligations.EveryStepKeepsTheInvariant : Prop :=
  ∀ s t : State, s.Inv → step s = .next t → t.Inv

/-- Every sequence of host operations, in any order the protocol allows, keeps the invariant. The bounds on `pc` and on live stack
entries are those of 10_state.md section 4 and 41_control_flow.md section 2, the canonical form of memory is the model's (log 17, DESIGN
CHOICE), and a run is one of the model's Session (log 10, DEDUCED from 20_memory.md section 7 and 60_exceptions.md section 9). -/
def Obligations.EveryOperationSequenceKeepsTheInvariant : Prop :=
  ∀ (ops : List Operation) (σ τ : Session), σ.core.Inv → Session.run ops σ = .next τ → τ.core.Inv

/-- Memory is data: two memories in canonical form that read the same at every address are the same list (the form is the model's,
log 17; 20_memory.md section 1). -/
def Obligations.CanonicalMemoriesAreEqualWhenTheyReadEqual : Prop :=
  ∀ m₁ m₂ : Memory, m₁.wf = true → m₂.wf = true → (∀ a, m₁.read a = m₂.read a) → m₁ = m₂

/-! ## Host operations -/

/-- R140: the value of every piece of state after `Init`, from any state; the font bytes are the parameter `FONT_TABLE`. -/
def Obligations.InitGivesTheResetState : Prop :=
  ∀ s : State, (init s).pc = 0x200 ∧ (init s).idx = 0 ∧ (init s).sp = 0 ∧
    (∀ r : Reg, (init s).readV r = 0) ∧ (∀ j : Fin 16, (init s).stack.get j = 0) ∧
    (∀ k : Key, (init s).keypad.get k = false) ∧ (∀ c : Fin 2048, (init s).gfx.get c = false) ∧
    (∀ a, a < 4096 → (init s).mem.read a =
      if 0x050 ≤ a ∧ a < 0x0A0 then fontTable.getD (a - 0x050) 0 else 0) ∧
    (init s).delayTimer = 0 ∧ (init s).soundTimer = 0 ∧ (init s).drawFlag = false ∧
    (init s).status = .running ∧ (init s).diagLog = []

/-- R143: an image of at most 3584 bytes lands at 0x200 unchanged, nothing else written; a longer one reports LoadError. -/
def Obligations.LoadCopiesTheImageOrReportsLoadError : Prop :=
  ∀ (bytes : List Byte) (s : State), s.mem.wf = true → s.status = .running →
    (bytes.length ≤ 3584 → ∃ t, load bytes s = .next t ∧ t = { s with mem := t.mem } ∧
      (∀ (j : Nat) (h : j < bytes.length), t.mem.read (0x200 + j) = bytes[j]) ∧
      ∀ a, (a < 0x200 ∨ 0x200 + bytes.length ≤ a) → t.mem.read a = s.mem.read a) ∧
    (bytes.length > 3584 → load bytes s = .fault .loadError)

/-- The boot protocol: `Load` after the first `Step` and `Step` after a failed `Load` have no meaning, a failed `Load` leaves the core
unchanged, no operation but `Init` ends either of these two phases, however many follow, and `Init` opens the window again
(70_reset_and_hazards.md sections 1 and 2; the spec's decision D20, log 10). -/
def Obligations.TheLoadWindowClosesAtTheFirstStep : Prop :=
  ∀ (bytes : List Byte) (σ τ : Session),
    (σ.apply .step = .next τ → τ.phase = .stepping) ∧
    (σ.core.status = .running → σ.phase ≠ .stepping → bytes.length > 3584 →
      ∃ υ, σ.apply (.load bytes) = .next υ ∧ υ.core = σ.core ∧ υ.phase = .loadFailed) ∧
    (σ.phase = .stepping → σ.apply (.load bytes) = .refused .loadAfterStep) ∧
    (σ.phase = .loadFailed → σ.apply .step = .refused .stepAfterLoadError) ∧
    (∀ op, op ≠ .init → σ.phase ≠ .loading → σ.apply op = .next τ → τ.phase = σ.phase) ∧
    (∀ ops, Operation.init ∉ ops → σ.phase ≠ .loading → Session.run ops σ = .next τ → τ.phase = σ.phase) ∧
    (∃ υ, σ.apply .init = .next υ ∧ υ.phase = .loading ∧ υ.core = init σ.core)

/-- R128: a `Tick` takes one from each timer, floored at 0, and changes nothing else. -/
def Obligations.TickCountsBothTimersDown : Prop :=
  ∀ s : State, s.status = .running → ∃ t, tick s = .next t ∧
    t = { s with delayTimer := t.delayTimer, soundTimer := t.soundTimer } ∧
    t.delayTimer.toNat = s.delayTimer.toNat - 1 ∧ t.soundTimer.toNat = s.soundTimer.toNat - 1

/-- "Timer tick never drives `delay_timer`/`sound_timer` below 0 regardless of tick count": any number of ticks in a row leaves each
timer at its value less the ticks, floored at 0 (60_exceptions.md section 7, 95_test_vectors.md S12). -/
def Obligations.ManyTicksFloorAtZero : Prop :=
  ∀ (n : Nat) (σ : Session), σ.core.status = .running → ∃ τ, Session.run (List.replicate n .tick) σ = .next τ ∧
    τ.phase = σ.phase ∧ τ.core = { σ.core with delayTimer := τ.core.delayTimer, soundTimer := τ.core.soundTimer } ∧
    τ.core.delayTimer.toNat = σ.core.delayTimer.toNat - n ∧ τ.core.soundTimer.toNat = σ.core.soundTimer.toNat - n

/-- `SetKey(k, b)` sets one slot and changes nothing else, and a `Step` only reads the slots; `ClearDrawFlag` clears the flag, touches
nothing else, and leaves everything but the flag of the next `Step` unaffected (60_exceptions.md section 8). That a `SetKey` with an index
above 15, which is not an operation of the interface, is refused is the model's choice (log 11, DEDUCED). -/
def Obligations.SetKeyAndClearDrawFlagTouchOneThing : Prop :=
  ∀ (b : Bool) (s : State), s.status = .running →
    (∀ k : Key, ∃ t, setKey k.val b s = .next t ∧ t = { s with keypad := t.keypad } ∧
      ∀ j : Key, t.keypad.get j = if j = k then b else s.keypad.get j) ∧
    (∀ k : Nat, k > 15 → setKey k b s = .refused (.keyIndexOutsideInterface k)) ∧
    (∀ t, step s = .next t → t.keypad = s.keypad) ∧
    ∃ t, clearDrawFlag s = .next t ∧ t = { s with drawFlag := false } ∧
      Result.map State.withoutDrawFlag (step t) = Result.map State.withoutDrawFlag (step s)

/-- Before the first `Init` every operation but `Init` is refused, as `notStarted` in the phase such a session is in, and `Init` always
succeeds (10_state.md section 5, the spec's decision D22, log 9). -/
def Obligations.NothingButInitBeforeInit : Prop :=
  (∀ (σ : Session) (op : Operation), σ.core.status = .notStarted → op ≠ .init →
    (∃ r, σ.apply op = .refused r) ∧ (σ.phase = .loading → σ.apply op = .refused .notStarted)) ∧
  ∀ σ : Session, ∃ τ, σ.apply .init = .next τ ∧ τ.core.status = .running
end

