-- ==== Sys2Proof/Laws/Decode.lean ====
section
/-!
SUPPORT. Fields and assembled words as numbers, so that facts about encodings become arithmetic, and: the fields of a word
assembled by `encA`, `encXK` or `encXYN` are the operands it was assembled from.
-/

namespace Sys2Proof

/-! ### The fields of a word as numbers -/

theorem familyField_toNat (op : Word) : (familyField op).toNat = op.toNat / 4096 := by
  simp only [familyField, BitVec.extractLsb'_toNat, Nat.shiftRight_eq_div_pow]
  omega

theorem xField_val (op : Word) : (xField op).val = op.toNat / 256 % 16 := by
  simp only [xField, BitVec.val_toFin, BitVec.extractLsb'_toNat, Nat.shiftRight_eq_div_pow]

theorem yField_val (op : Word) : (yField op).val = op.toNat / 16 % 16 := by
  simp only [yField, BitVec.val_toFin, BitVec.extractLsb'_toNat, Nat.shiftRight_eq_div_pow]

theorem nField_toNat (op : Word) : (nField op).toNat = op.toNat % 16 := by
  simp [nField]

theorem kkField_toNat (op : Word) : (kkField op).toNat = op.toNat % 256 := by
  simp [kkField]

theorem nnnField_toNat (op : Word) : (nnnField op).toNat = op.toNat % 4096 := by
  simp [nnnField]

theorem regBits_toNat (r : Reg) : (regBits r).toNat = r.val := by
  simp only [regBits, BitVec.toNat_ofNat]
  exact Nat.mod_eq_of_lt r.isLt

/-! ### Assembled words as numbers -/

/-- A concatenation as a number. -/
theorem append_toNat {m n : Nat} (a : BitVec m) (b : BitVec n) : (a ++ b).toNat = a.toNat * 2 ^ n + b.toNat := by
  rw [BitVec.toNat_append, ← Nat.shiftLeft_add_eq_or_of_lt b.isLt, Nat.shiftLeft_eq]

theorem encA_toNat (f : BitVec 4) (nnn : Addr12) : (encA f nnn).toNat = f.toNat * 4096 + nnn.toNat :=
  append_toNat f nnn

theorem encXK_toNat (f : BitVec 4) (x : Reg) (kk : Byte) :
    (encXK f x kk).toNat = f.toNat * 4096 + (x.val * 256 + kk.toNat) := by
  have low : (regBits x ++ kk).toNat = x.val * 256 + kk.toNat := by rw [append_toNat, regBits_toNat]; norm_num
  exact (append_toNat f (regBits x ++ kk)).trans (by rw [low]; norm_num)

theorem encXYN_toNat (f : BitVec 4) (x y : Reg) (n : BitVec 4) :
    (encXYN f x y n).toNat = f.toNat * 4096 + (x.val * 256 + (y.val * 16 + n.toNat)) := by
  have low : (regBits y ++ n).toNat = y.val * 16 + n.toNat := by rw [append_toNat, regBits_toNat]; norm_num
  have mid : (regBits x ++ (regBits y ++ n)).toNat = x.val * 256 + (y.val * 16 + n.toNat) := by
    rw [append_toNat, regBits_toNat, low]; norm_num
  exact (append_toNat f (regBits x ++ (regBits y ++ n))).trans (by rw [mid]; norm_num)

theorem wordOfBytes_toNat (hi lo : Byte) : (wordOfBytes hi lo).toNat = hi.toNat * 256 + lo.toNat :=
  append_toNat hi lo

/-! ### The fields of assembled words -/

section
variable (f n : BitVec 4) (x y : Reg) (kk : Byte) (nnn : Addr12)

@[simp] theorem familyField_encA : familyField (encA f nnn) = f := by
  apply BitVec.eq_of_toNat_eq
  rw [familyField_toNat, encA_toNat]
  omega

@[simp] theorem nnnField_encA : nnnField (encA f nnn) = nnn := by
  apply BitVec.eq_of_toNat_eq
  rw [nnnField_toNat, encA_toNat]
  omega

@[simp] theorem familyField_encXK : familyField (encXK f x kk) = f := by
  apply BitVec.eq_of_toNat_eq
  rw [familyField_toNat, encXK_toNat]
  omega

@[simp] theorem xField_encXK : xField (encXK f x kk) = x := by
  apply Fin.ext
  rw [xField_val, encXK_toNat]
  omega

@[simp] theorem kkField_encXK : kkField (encXK f x kk) = kk := by
  apply BitVec.eq_of_toNat_eq
  rw [kkField_toNat, encXK_toNat]
  omega

@[simp] theorem familyField_encXYN : familyField (encXYN f x y n) = f := by
  apply BitVec.eq_of_toNat_eq
  rw [familyField_toNat, encXYN_toNat]
  omega

@[simp] theorem xField_encXYN : xField (encXYN f x y n) = x := by
  apply Fin.ext
  rw [xField_val, encXYN_toNat]
  omega

@[simp] theorem yField_encXYN : yField (encXYN f x y n) = y := by
  apply Fin.ext
  rw [yField_val, encXYN_toNat]
  omega

@[simp] theorem nField_encXYN : nField (encXYN f x y n) = n := by
  apply BitVec.eq_of_toNat_eq
  rw [nField_toNat, encXYN_toNat]
  omega

end

/-! ### Every word is the assembly of its fields -/

theorem encA_fields (op : Word) : encA (familyField op) (nnnField op) = op := by
  apply BitVec.eq_of_toNat_eq
  rw [encA_toNat, familyField_toNat, nnnField_toNat]
  omega

theorem encXK_fields (op : Word) : encXK (familyField op) (xField op) (kkField op) = op := by
  apply BitVec.eq_of_toNat_eq
  rw [encXK_toNat, familyField_toNat, xField_val, kkField_toNat]
  omega

theorem encXYN_fields (op : Word) : encXYN (familyField op) (xField op) (yField op) (nField op) = op := by
  apply BitVec.eq_of_toNat_eq
  rw [encXYN_toNat, familyField_toNat, xField_val, yField_val, nField_toNat]
  omega

/-! ### The masks of the opcode map keep the fixed fields (R48, R49) -/

theorem mask_F000 (op : Word) : op &&& 0xF000#16 = encA (familyField op) 0#12 := by
  apply BitVec.eq_of_getLsbD_eq
  intro i hi
  rw [BitVec.getLsbD_and]
  simp only [encA, familyField]
  rw [BitVec.getLsbD_append]
  interval_cases i <;> simp

theorem mask_F00F (op : Word) : op &&& 0xF00F#16 = encXYN (familyField op) 0 0 (nField op) := by
  apply BitVec.eq_of_getLsbD_eq
  intro i hi
  rw [BitVec.getLsbD_and]
  simp only [encXYN, familyField, nField, regBits]
  rw [BitVec.getLsbD_append, BitVec.getLsbD_append, BitVec.getLsbD_append]
  interval_cases i <;> simp

theorem mask_F0FF (op : Word) : op &&& 0xF0FF#16 = encXK (familyField op) 0 (kkField op) := by
  apply BitVec.eq_of_getLsbD_eq
  intro i hi
  rw [BitVec.getLsbD_and]
  simp only [encXK, familyField, kkField, regBits]
  rw [BitVec.getLsbD_append, BitVec.getLsbD_append]
  interval_cases i <;> simp

/-! ### The family selects the secondary decoder (R48) -/

section
variable {op : Word}

theorem decodeWord_family0 (h : familyField op = 0x0#4) : decodeWord op = decodeFamily0 op := by
  simp [decodeWord, h]

theorem decodeWord_family1 (h : familyField op = 0x1#4) : decodeWord op = some (.jp (nnnField op)) := by
  simp [decodeWord, h]

theorem decodeWord_family2 (h : familyField op = 0x2#4) : decodeWord op = some (.call (nnnField op)) := by
  simp [decodeWord, h]

theorem decodeWord_family3 (h : familyField op = 0x3#4) : decodeWord op = some (.seImm (xField op) (kkField op)) := by
  simp [decodeWord, h]

theorem decodeWord_family4 (h : familyField op = 0x4#4) : decodeWord op = some (.sneImm (xField op) (kkField op)) := by
  simp [decodeWord, h]

theorem decodeWord_family5 (h : familyField op = 0x5#4) : decodeWord op = decodeLowNibble0 op .seReg := by
  simp [decodeWord, h]

theorem decodeWord_family6 (h : familyField op = 0x6#4) : decodeWord op = some (.ldImm (xField op) (kkField op)) := by
  simp [decodeWord, h]

theorem decodeWord_family7 (h : familyField op = 0x7#4) : decodeWord op = some (.addImm (xField op) (kkField op)) := by
  simp [decodeWord, h]

theorem decodeWord_family8 (h : familyField op = 0x8#4) : decodeWord op = decodeFamily8 op := by
  simp [decodeWord, h]

theorem decodeWord_family9 (h : familyField op = 0x9#4) : decodeWord op = decodeLowNibble0 op .sneReg := by
  simp [decodeWord, h]

theorem decodeWord_familyA (h : familyField op = 0xA#4) : decodeWord op = some (.ldI (nnnField op)) := by
  simp [decodeWord, h]

theorem decodeWord_familyB (h : familyField op = 0xB#4) : decodeWord op = some (.jpV0 (nnnField op)) := by
  simp [decodeWord, h]

theorem decodeWord_familyC (h : familyField op = 0xC#4) : decodeWord op = some (.rnd (xField op) (kkField op)) := by
  simp [decodeWord, h]

theorem decodeWord_familyD (h : familyField op = 0xD#4) : decodeWord op = some (.drw (xField op) (yField op) (nField op).toNat) := by
  simp [decodeWord, h]

theorem decodeWord_familyE (h : familyField op = 0xE#4) : decodeWord op = decodeFamilyE op := by
  simp [decodeWord, h]

theorem decodeWord_familyF (h : familyField op = 0xF#4) : decodeWord op = decodeFamilyF op := by
  simp [decodeWord, h]

end

/-- A nibble is one of the sixteen. -/
theorem nibble_cases (f : BitVec 4) :
    f = 0x0#4 ∨ f = 0x1#4 ∨ f = 0x2#4 ∨ f = 0x3#4 ∨ f = 0x4#4 ∨ f = 0x5#4 ∨ f = 0x6#4 ∨ f = 0x7#4 ∨
    f = 0x8#4 ∨ f = 0x9#4 ∨ f = 0xA#4 ∨ f = 0xB#4 ∨ f = 0xC#4 ∨ f = 0xD#4 ∨ f = 0xE#4 ∨ f = 0xF#4 := by
  revert f; decide

/-! ### When a row of the opcode map accepts a word (R48), by its mask -/

theorem accepts_family_iff (m : String) (f : BitVec 4) (op : Word) :
    (OpcodeRow.mk m (encA f 0#12) 0xF000#16).accepts op = true ↔ familyField op = f := by
  simp only [OpcodeRow.accepts, mask_F000, beq_iff_eq]
  exact ⟨fun h => by simpa using congrArg familyField h, fun h => by rw [h]⟩

theorem accepts_nibbles_iff (m : String) (f n : BitVec 4) (op : Word) :
    (OpcodeRow.mk m (encXYN f 0 0 n) 0xF00F#16).accepts op = true ↔ familyField op = f ∧ nField op = n := by
  simp only [OpcodeRow.accepts, mask_F00F, beq_iff_eq]
  exact ⟨fun h => ⟨by simpa using congrArg familyField h, by simpa using congrArg nField h⟩, fun h => by rw [h.1, h.2]⟩

theorem accepts_byte_iff (m : String) (f : BitVec 4) (kk : Byte) (op : Word) :
    (OpcodeRow.mk m (encXK f 0 kk) 0xF0FF#16).accepts op = true ↔ familyField op = f ∧ kkField op = kk := by
  simp only [OpcodeRow.accepts, mask_F0FF, beq_iff_eq]
  exact ⟨fun h => ⟨by simpa using congrArg familyField h, by simpa using congrArg kkField h⟩, fun h => by rw [h.1, h.2]⟩

theorem accepts_word_iff (m : String) (p op : Word) : (OpcodeRow.mk m p 0xFFFF#16).accepts op = true ↔ op = p := by
  have h : op &&& 0xFFFF#16 = op := BitVec.and_allOnes (x := op)
  simp [OpcodeRow.accepts, h]

/-! ### The two bytes of a word -/

/-- The bytes of a word, high byte first, are the word. -/
@[simp] theorem wordOfBytes_bytesOfWord (op : Word) : wordOfBytes (bytesOfWord op).1 (bytesOfWord op).2 = op := by
  apply BitVec.eq_of_toNat_eq
  rw [wordOfBytes_toNat]
  simp only [bytesOfWord, BitVec.extractLsb'_toNat, Nat.shiftRight_eq_div_pow]
  omega

end Sys2Proof
end

