-- ==== Sys2Proof/Laws/State.lean ====
section
/-!
SUPPORT. One lemma per field per update of the state, each true by `rfl`, so that no later proof unfolds a record update.
-/

namespace Sys2Proof.Machine

variable (s : State)

/-! ### `writeV` -/

@[simp] theorem State.writeV_V (r : Reg) (v : Byte) : (s.writeV r v).V = s.V.set r.val v r.isLt := rfl
@[simp] theorem State.writeV_idx (r : Reg) (v : Byte) : (s.writeV r v).idx = s.idx := rfl
@[simp] theorem State.writeV_pc (r : Reg) (v : Byte) : (s.writeV r v).pc = s.pc := rfl
@[simp] theorem State.writeV_stack (r : Reg) (v : Byte) : (s.writeV r v).stack = s.stack := rfl
@[simp] theorem State.writeV_sp (r : Reg) (v : Byte) : (s.writeV r v).sp = s.sp := rfl
@[simp] theorem State.writeV_mem (r : Reg) (v : Byte) : (s.writeV r v).mem = s.mem := rfl
@[simp] theorem State.writeV_gfx (r : Reg) (v : Byte) : (s.writeV r v).gfx = s.gfx := rfl
@[simp] theorem State.writeV_delayTimer (r : Reg) (v : Byte) : (s.writeV r v).delayTimer = s.delayTimer := rfl
@[simp] theorem State.writeV_soundTimer (r : Reg) (v : Byte) : (s.writeV r v).soundTimer = s.soundTimer := rfl
@[simp] theorem State.writeV_keypad (r : Reg) (v : Byte) : (s.writeV r v).keypad = s.keypad := rfl
@[simp] theorem State.writeV_drawFlag (r : Reg) (v : Byte) : (s.writeV r v).drawFlag = s.drawFlag := rfl
@[simp] theorem State.writeV_status (r : Reg) (v : Byte) : (s.writeV r v).status = s.status := rfl
@[simp] theorem State.writeV_diagLog (r : Reg) (v : Byte) : (s.writeV r v).diagLog = s.diagLog := rfl
@[simp] theorem State.writeV_freeIndex (r : Reg) (v : Byte) : (s.writeV r v).freeIndex = s.freeIndex := rfl

/-! ### `setPc` -/

@[simp] theorem State.setPc_V (w : Word) : (s.setPc w).V = s.V := rfl
@[simp] theorem State.setPc_idx (w : Word) : (s.setPc w).idx = s.idx := rfl
@[simp] theorem State.setPc_pc (w : Word) : (s.setPc w).pc = w := rfl
@[simp] theorem State.setPc_stack (w : Word) : (s.setPc w).stack = s.stack := rfl
@[simp] theorem State.setPc_sp (w : Word) : (s.setPc w).sp = s.sp := rfl
@[simp] theorem State.setPc_mem (w : Word) : (s.setPc w).mem = s.mem := rfl
@[simp] theorem State.setPc_gfx (w : Word) : (s.setPc w).gfx = s.gfx := rfl
@[simp] theorem State.setPc_delayTimer (w : Word) : (s.setPc w).delayTimer = s.delayTimer := rfl
@[simp] theorem State.setPc_soundTimer (w : Word) : (s.setPc w).soundTimer = s.soundTimer := rfl
@[simp] theorem State.setPc_keypad (w : Word) : (s.setPc w).keypad = s.keypad := rfl
@[simp] theorem State.setPc_drawFlag (w : Word) : (s.setPc w).drawFlag = s.drawFlag := rfl
@[simp] theorem State.setPc_status (w : Word) : (s.setPc w).status = s.status := rfl
@[simp] theorem State.setPc_diagLog (w : Word) : (s.setPc w).diagLog = s.diagLog := rfl
@[simp] theorem State.setPc_freeIndex (w : Word) : (s.setPc w).freeIndex = s.freeIndex := rfl

/-! ### `advance` -/

@[simp] theorem State.advance_V : (s.advance).V = s.V := rfl
@[simp] theorem State.advance_idx : (s.advance).idx = s.idx := rfl
@[simp] theorem State.advance_pc : (s.advance).pc = s.pc + 2 := rfl
@[simp] theorem State.advance_stack : (s.advance).stack = s.stack := rfl
@[simp] theorem State.advance_sp : (s.advance).sp = s.sp := rfl
@[simp] theorem State.advance_mem : (s.advance).mem = s.mem := rfl
@[simp] theorem State.advance_gfx : (s.advance).gfx = s.gfx := rfl
@[simp] theorem State.advance_delayTimer : (s.advance).delayTimer = s.delayTimer := rfl
@[simp] theorem State.advance_soundTimer : (s.advance).soundTimer = s.soundTimer := rfl
@[simp] theorem State.advance_keypad : (s.advance).keypad = s.keypad := rfl
@[simp] theorem State.advance_drawFlag : (s.advance).drawFlag = s.drawFlag := rfl
@[simp] theorem State.advance_status : (s.advance).status = s.status := rfl
@[simp] theorem State.advance_diagLog : (s.advance).diagLog = s.diagLog := rfl
@[simp] theorem State.advance_freeIndex : (s.advance).freeIndex = s.freeIndex := rfl

/-! ### `skipIf` -/

@[simp] theorem State.skipIf_V (c : Bool) : (s.skipIf c).V = s.V := rfl
@[simp] theorem State.skipIf_idx (c : Bool) : (s.skipIf c).idx = s.idx := rfl
@[simp] theorem State.skipIf_pc (c : Bool) : (s.skipIf c).pc = if c then s.pc + 4 else s.pc + 2 := rfl
@[simp] theorem State.skipIf_stack (c : Bool) : (s.skipIf c).stack = s.stack := rfl
@[simp] theorem State.skipIf_sp (c : Bool) : (s.skipIf c).sp = s.sp := rfl
@[simp] theorem State.skipIf_mem (c : Bool) : (s.skipIf c).mem = s.mem := rfl
@[simp] theorem State.skipIf_gfx (c : Bool) : (s.skipIf c).gfx = s.gfx := rfl
@[simp] theorem State.skipIf_delayTimer (c : Bool) : (s.skipIf c).delayTimer = s.delayTimer := rfl
@[simp] theorem State.skipIf_soundTimer (c : Bool) : (s.skipIf c).soundTimer = s.soundTimer := rfl
@[simp] theorem State.skipIf_keypad (c : Bool) : (s.skipIf c).keypad = s.keypad := rfl
@[simp] theorem State.skipIf_drawFlag (c : Bool) : (s.skipIf c).drawFlag = s.drawFlag := rfl
@[simp] theorem State.skipIf_status (c : Bool) : (s.skipIf c).status = s.status := rfl
@[simp] theorem State.skipIf_diagLog (c : Bool) : (s.skipIf c).diagLog = s.diagLog := rfl
@[simp] theorem State.skipIf_freeIndex (c : Bool) : (s.skipIf c).freeIndex = s.freeIndex := rfl

/-! ### `writeResultFlag` -/

@[simp] theorem State.writeResultFlag_V (x : Reg) (v : Byte) (b : Bool) : (s.writeResultFlag x v b).V = ((s.V.set x.val v x.isLt).set flagReg.val (flagByte b) flagReg.isLt) := rfl
@[simp] theorem State.writeResultFlag_idx (x : Reg) (v : Byte) (b : Bool) : (s.writeResultFlag x v b).idx = s.idx := rfl
@[simp] theorem State.writeResultFlag_pc (x : Reg) (v : Byte) (b : Bool) : (s.writeResultFlag x v b).pc = s.pc + 2 := rfl
@[simp] theorem State.writeResultFlag_stack (x : Reg) (v : Byte) (b : Bool) : (s.writeResultFlag x v b).stack = s.stack := rfl
@[simp] theorem State.writeResultFlag_sp (x : Reg) (v : Byte) (b : Bool) : (s.writeResultFlag x v b).sp = s.sp := rfl
@[simp] theorem State.writeResultFlag_mem (x : Reg) (v : Byte) (b : Bool) : (s.writeResultFlag x v b).mem = s.mem := rfl
@[simp] theorem State.writeResultFlag_gfx (x : Reg) (v : Byte) (b : Bool) : (s.writeResultFlag x v b).gfx = s.gfx := rfl
@[simp] theorem State.writeResultFlag_delayTimer (x : Reg) (v : Byte) (b : Bool) : (s.writeResultFlag x v b).delayTimer = s.delayTimer := rfl
@[simp] theorem State.writeResultFlag_soundTimer (x : Reg) (v : Byte) (b : Bool) : (s.writeResultFlag x v b).soundTimer = s.soundTimer := rfl
@[simp] theorem State.writeResultFlag_keypad (x : Reg) (v : Byte) (b : Bool) : (s.writeResultFlag x v b).keypad = s.keypad := rfl
@[simp] theorem State.writeResultFlag_drawFlag (x : Reg) (v : Byte) (b : Bool) : (s.writeResultFlag x v b).drawFlag = s.drawFlag := rfl
@[simp] theorem State.writeResultFlag_status (x : Reg) (v : Byte) (b : Bool) : (s.writeResultFlag x v b).status = s.status := rfl
@[simp] theorem State.writeResultFlag_diagLog (x : Reg) (v : Byte) (b : Bool) : (s.writeResultFlag x v b).diagLog = s.diagLog := rfl
@[simp] theorem State.writeResultFlag_freeIndex (x : Reg) (v : Byte) (b : Bool) : (s.writeResultFlag x v b).freeIndex = s.freeIndex := rfl

/-! ### `placeWord` -/

@[simp] theorem State.placeWord_V (op : Word) : (s.placeWord op).V = s.V := rfl
@[simp] theorem State.placeWord_idx (op : Word) : (s.placeWord op).idx = s.idx := rfl
@[simp] theorem State.placeWord_pc (op : Word) : (s.placeWord op).pc = s.pc := rfl
@[simp] theorem State.placeWord_stack (op : Word) : (s.placeWord op).stack = s.stack := rfl
@[simp] theorem State.placeWord_sp (op : Word) : (s.placeWord op).sp = s.sp := rfl
@[simp] theorem State.placeWord_mem (op : Word) : (s.placeWord op).mem = s.mem.writeBytes s.pc.toNat [(bytesOfWord op).1, (bytesOfWord op).2] := rfl
@[simp] theorem State.placeWord_gfx (op : Word) : (s.placeWord op).gfx = s.gfx := rfl
@[simp] theorem State.placeWord_delayTimer (op : Word) : (s.placeWord op).delayTimer = s.delayTimer := rfl
@[simp] theorem State.placeWord_soundTimer (op : Word) : (s.placeWord op).soundTimer = s.soundTimer := rfl
@[simp] theorem State.placeWord_keypad (op : Word) : (s.placeWord op).keypad = s.keypad := rfl
@[simp] theorem State.placeWord_drawFlag (op : Word) : (s.placeWord op).drawFlag = s.drawFlag := rfl
@[simp] theorem State.placeWord_status (op : Word) : (s.placeWord op).status = s.status := rfl
@[simp] theorem State.placeWord_diagLog (op : Word) : (s.placeWord op).diagLog = s.diagLog := rfl
@[simp] theorem State.placeWord_freeIndex (op : Word) : (s.placeWord op).freeIndex = s.freeIndex := rfl

/-! ### `init` and reset -/

@[simp] theorem init_V : (init s).V = State.reset.V := rfl
@[simp] theorem init_idx : (init s).idx = State.reset.idx := rfl
@[simp] theorem init_pc : (init s).pc = State.reset.pc := rfl
@[simp] theorem init_stack : (init s).stack = State.reset.stack := rfl
@[simp] theorem init_sp : (init s).sp = State.reset.sp := rfl
@[simp] theorem init_mem : (init s).mem = State.reset.mem := rfl
@[simp] theorem init_gfx : (init s).gfx = State.reset.gfx := rfl
@[simp] theorem init_delayTimer : (init s).delayTimer = State.reset.delayTimer := rfl
@[simp] theorem init_soundTimer : (init s).soundTimer = State.reset.soundTimer := rfl
@[simp] theorem init_keypad : (init s).keypad = State.reset.keypad := rfl
@[simp] theorem init_drawFlag : (init s).drawFlag = State.reset.drawFlag := rfl
@[simp] theorem init_status : (init s).status = State.reset.status := rfl
@[simp] theorem init_diagLog : (init s).diagLog = State.reset.diagLog := rfl
@[simp] theorem init_freeIndex : (init s).freeIndex = s.freeIndex := rfl

@[simp] theorem State.reset_V : State.reset.V = Vector.replicate 16 0 := rfl
@[simp] theorem State.reset_idx : State.reset.idx = 0 := rfl
@[simp] theorem State.reset_pc : State.reset.pc = 0x0200 := rfl
@[simp] theorem State.reset_stack : State.reset.stack = Vector.replicate 16 0 := rfl
@[simp] theorem State.reset_sp : State.reset.sp = 0 := rfl
@[simp] theorem State.reset_mem : State.reset.mem = [] := rfl
@[simp] theorem State.reset_gfx : State.reset.gfx = Vector.replicate 2048 false := rfl
@[simp] theorem State.reset_delayTimer : State.reset.delayTimer = 0 := rfl
@[simp] theorem State.reset_soundTimer : State.reset.soundTimer = 0 := rfl
@[simp] theorem State.reset_keypad : State.reset.keypad = Vector.replicate 16 false := rfl
@[simp] theorem State.reset_drawFlag : State.reset.drawFlag = false := rfl
@[simp] theorem State.reset_status : State.reset.status = .running := rfl
@[simp] theorem State.reset_diagLog : State.reset.diagLog = [] := rfl
@[simp] theorem State.reset_freeIndex : State.reset.freeIndex = 0 := rfl

/-! ### Reading a register -/

/-- Reading the register just written. -/
@[simp] theorem State.readV_writeV_same (r : Reg) (v : Byte) : (s.writeV r v).readV r = v := by
  simp [State.readV, State.writeV, Vector.get_eq_getElem]

/-- Reading another register than the one written. -/
theorem State.readV_writeV_of_ne {r q : Reg} (v : Byte) (h : q ≠ r) : (s.writeV r v).readV q = s.readV q := by
  have hv : r.val ≠ q.val := fun e => h (Fin.ext e.symm)
  simp [State.readV, State.writeV, Vector.get_eq_getElem, Vector.getElem_set_ne _ _ hv]

/-- Reading a register after a write, in one equation. -/
theorem State.readV_writeV (r q : Reg) (v : Byte) : (s.writeV r v).readV q = if q = r then v else s.readV q := by
  by_cases h : q = r
  · subst h; simp
  · simp [h, State.readV_writeV_of_ne]

@[simp] theorem State.readV_setPc (w : Word) (q : Reg) : (s.setPc w).readV q = s.readV q := rfl
@[simp] theorem State.readV_advance (q : Reg) : s.advance.readV q = s.readV q := rfl
@[simp] theorem State.readV_skipIf (c : Bool) (q : Reg) : (s.skipIf c).readV q = s.readV q := rfl

/-- What every register holds after a result and a flag are written: the flag wins in `V[15]` (42_alu.md R82). -/
theorem State.readV_writeResultFlag (x q : Reg) (v : Byte) (b : Bool) :
    (s.writeResultFlag x v b).readV q = if q = flagReg then flagByte b else if q = x then v else s.readV q := by
  simp only [State.writeResultFlag, State.readV_advance, State.readV_writeV]

end Sys2Proof.Machine
end

