-- ==== Sys2Proof/Laws/Display.lean ====
section
/-!
SUPPORT. What a sprite draw does: the pair of loops of spec/44_display.md R107 toggles the cells the sprite covers, each once.
-/

namespace Sys2Proof.Machine

/-! ### The framebuffer toggle -/

/-- Toggling a cell flips it and leaves every other cell alone. -/
theorem Canvas.toggle_get (cv : Canvas) (c d : Fin 2048) :
    (cv.toggle c).gfx.get d = if d = c then !cv.gfx.get d else cv.gfx.get d := by
  by_cases h : d = c
  · subst h; simp [Canvas.toggle, Vector.get_eq_getElem]
  · have hv : c.val ≠ d.val := fun e => h (Fin.ext e.symm)
    simp [Canvas.toggle, Vector.get_eq_getElem, Vector.getElem_set_ne _ _ hv, h]

@[simp] theorem Canvas.toggle_hit (cv : Canvas) (c : Fin 2048) : (cv.toggle c).hit = (cv.hit || cv.gfx.get c) := rfl

/-- Toggling a list of distinct cells flips exactly those, and reports whether one of them was set. -/
theorem foldl_toggle (cells : List (Fin 2048)) (distinct : cells.Nodup) (cv : Canvas) :
    (∀ d, (cells.foldl Canvas.toggle cv).gfx.get d = if d ∈ cells then !cv.gfx.get d else cv.gfx.get d) ∧
    ((cells.foldl Canvas.toggle cv).hit = true ↔ cv.hit = true ∨ ∃ d ∈ cells, cv.gfx.get d = true) := by
  induction cells generalizing cv with
  | nil => simp
  | cons c rest ih =>
    obtain ⟨hget, hhit⟩ := ih distinct.of_cons (cv.toggle c)
    have hc : c ∉ rest := (List.nodup_cons.1 distinct).1
    refine ⟨fun d => ?_, ?_⟩
    · rw [List.foldl_cons, hget, Canvas.toggle_get]
      by_cases hd : d = c
      · subst hd; simp [hc]
      · simp [hd]
    · rw [List.foldl_cons, hhit]
      simp only [Canvas.toggle_hit, Bool.or_eq_true, Canvas.toggle_get, List.mem_cons]
      have hne : ∀ d ∈ rest, d ≠ c := fun d hd e => hc (e ▸ hd)
      constructor
      · rintro ((h | h) | ⟨d, hd, h⟩)
        · exact .inl h
        · exact .inr ⟨c, .inl rfl, h⟩
        · exact .inr ⟨d, .inr hd, by rwa [if_neg (hne d hd)] at h⟩
      · rintro (h | ⟨d, rfl | hd, h⟩)
        · exact .inl (.inl h)
        · exact .inl (.inr h)
        · exact .inr ⟨d, hd, by rwa [if_neg (hne d hd)]⟩

/-! ### The cells of a sprite -/

/-- The cells the two loops of R107 toggle, in their order. -/
def spriteCells (m : Memory) (base x0 y0 n : Nat) : List (Fin 2048) :=
  (List.range n).flatMap fun r =>
    ((List.range 8).filter (spriteBit (m.read (base + r)))).map fun c => cellIndex (x0 + c) (y0 + r)

/-- The draw is the toggling of its cells. -/
theorem drawSprite_eq_foldl (m : Memory) (base x0 y0 n : Nat) (gfx : Vector Bool 2048) :
    drawSprite m base x0 y0 n gfx = (spriteCells m base x0 y0 n).foldl Canvas.toggle { gfx := gfx, hit := false } := by
  simp only [spriteCells, drawSprite, List.foldl_flatMap, List.foldl_map, List.foldl_filter]
  rfl

theorem mem_spriteCells {m : Memory} {base x0 y0 n : Nat} {d : Fin 2048} :
    d ∈ spriteCells m base x0 y0 n ↔
      ∃ r < n, ∃ c < 8, spriteBit (m.read (base + r)) c = true ∧ d = cellIndex (x0 + c) (y0 + r) := by
  simp only [spriteCells, List.mem_flatMap, List.mem_range, List.mem_map, List.mem_filter]
  constructor
  · rintro ⟨r, hr, c, ⟨hc, hb⟩, e⟩; exact ⟨r, hr, c, hc, hb, e.symm⟩
  · rintro ⟨r, hr, c, hc, hb, e⟩; exact ⟨r, hr, c, ⟨hc, hb⟩, e.symm⟩

/-- Eight columns are fewer than 64 and at most 32 rows fit the screen, so no cell is toggled twice. -/
theorem nodup_spriteCells (m : Memory) (base x0 y0 n : Nat) (hn : n ≤ 32) : (spriteCells m base x0 y0 n).Nodup := by
  rw [spriteCells, List.nodup_flatMap]
  constructor
  · intro r _
    refine List.Nodup.map_on ?_ (List.nodup_range.filter _)
    intro c hc c' hc' e
    have h1 := List.mem_range.1 (List.mem_filter.1 hc).1
    have h2 := List.mem_range.1 (List.mem_filter.1 hc').1
    have he := congrArg Fin.val e
    simp only [cellIndex] at he
    omega
  · refine List.Nodup.pairwise_of_forall_ne List.nodup_range ?_
    intro r hr r' hr' hne
    have h1 := List.mem_range.1 hr
    have h2 := List.mem_range.1 hr'
    simp only [Function.onFun, List.disjoint_left]
    intro d hd hd'
    obtain ⟨c, _, e⟩ := List.mem_map.1 hd
    obtain ⟨c', _, e'⟩ := List.mem_map.1 hd'
    have he := congrArg Fin.val (e.trans e'.symm)
    simp only [cellIndex] at he
    omega

/-- `spriteCovers` of Safety.lean is membership in the list. -/
theorem spriteCovers_iff (x y : Reg) (n : Nat) (s : State) (d : Fin 2048) :
    spriteCovers x y n s d ↔
      d ∈ spriteCells s.mem s.idx.toNat ((s.readV x).toNat % 64) ((s.readV y).toNat % 32) n := by
  rw [mem_spriteCells]
  simp only [spriteCovers, spriteBit, Fin.ext_iff, cellIndex]

end Sys2Proof.Machine
end

