-- ==== Sys2Proof/Laws/Memory.lean ====
section
/-!
SUPPORT. The laws of memory: a read after a write, and that every memory operation keeps the canonical form.
-/

namespace Sys2Proof.Machine

/-! ### Lookup -/

theorem Memory.lookup_insert (m : Memory) (a b : Nat) (v : Byte) :
    Memory.lookup b (Memory.insert a v m) = if a = b then some v else Memory.lookup b m := by
  induction m with
  | nil => by_cases h : a = b <;> simp [Memory.insert, Memory.lookup, h]
  | cons c rest ih =>
    obtain ⟨c, w⟩ := c
    by_cases h1 : a < c
    · simp [Memory.insert, Memory.lookup, h1]
    · by_cases h2 : a = c
      · subst h2
        by_cases h : a = b <;> simp [Memory.insert, Memory.lookup, h]
      · by_cases h : a = b
        · subst h
          simp [Memory.insert, Memory.lookup, h1, h2, ih, Ne.symm h2]
        · simp [Memory.insert, Memory.lookup, h1, h2, ih, h]

/-- Below its bound a well-formed memory lists nothing. -/
theorem Memory.lookup_of_lt {m : Memory} {lo a : Nat} (h : Memory.wfFrom lo m = true) (ha : a < lo) :
    Memory.lookup a m = none := by
  induction m generalizing lo with
  | nil => rfl
  | cons c rest ih =>
    obtain ⟨c, w⟩ := c
    simp only [Memory.wfFrom, Bool.and_eq_true, decide_eq_true_eq] at h
    obtain ⟨⟨⟨h1, _⟩, _⟩, h4⟩ := h
    have hne : c ≠ a := by omega
    simp only [Memory.lookup, hne, if_false]
    exact ih h4 (by omega)

theorem Memory.lookup_erase {m : Memory} {lo : Nat} (h : Memory.wfFrom lo m = true) (a b : Nat) :
    Memory.lookup b (Memory.erase a m) = if b = a then none else Memory.lookup b m := by
  induction m generalizing lo with
  | nil => by_cases hb : b = a <;> simp [Memory.erase, Memory.lookup, hb]
  | cons c rest ih =>
    obtain ⟨c, w⟩ := c
    simp only [Memory.wfFrom, Bool.and_eq_true, decide_eq_true_eq] at h
    obtain ⟨⟨⟨_, _⟩, _⟩, h4⟩ := h
    by_cases hc : c = a
    · subst hc
      by_cases hb : b = c
      · subst hb
        simpa [Memory.erase] using Memory.lookup_of_lt h4 (Nat.lt_succ_self b)
      · simp [Memory.erase, Memory.lookup, hb, eq_comm]
    · by_cases hb : b = a
      · subst hb
        simpa [Memory.erase, Memory.lookup, hc] using ih h4
      · by_cases hbc : c = b <;> simp [Memory.erase, Memory.lookup, hc, hb, hbc, ih h4]

/-! ### The canonical form is kept -/

theorem Memory.wfFrom_mono {m : Memory} {lo hi : Nat} (h : Memory.wfFrom hi m = true) (hle : lo ≤ hi) :
    Memory.wfFrom lo m = true := by
  cases m with
  | nil => rfl
  | cons c rest =>
    simp only [Memory.wfFrom, Bool.and_eq_true, decide_eq_true_eq] at h ⊢
    obtain ⟨⟨⟨h1, h2⟩, h3⟩, h4⟩ := h
    exact ⟨⟨⟨by omega, h2⟩, h3⟩, h4⟩

theorem Memory.wfFrom_insert {m : Memory} {lo a : Nat} {v : Byte} (h : Memory.wfFrom lo m = true) (hlo : lo ≤ a)
    (ha : a < Config.memSize) (hv : v ≠ unlistedByte a) : Memory.wfFrom lo (Memory.insert a v m) = true := by
  induction m generalizing lo with
  | nil => simp [Memory.insert, Memory.wfFrom, hlo, ha, hv]
  | cons c rest ih =>
    obtain ⟨c, w⟩ := c
    have h' := h
    simp only [Memory.wfFrom, Bool.and_eq_true, decide_eq_true_eq] at h'
    obtain ⟨⟨⟨h1, h2⟩, h3⟩, h4⟩ := h'
    by_cases hac : a < c
    · simp only [Memory.insert, hac, if_true, Memory.wfFrom, Bool.and_eq_true, decide_eq_true_eq]
      exact ⟨⟨⟨hlo, ha⟩, hv⟩, ⟨⟨by omega, h2⟩, h3⟩, h4⟩
    · by_cases hea : a = c
      · subst hea
        simp only [Memory.insert, hac, if_true, if_false, Memory.wfFrom, Bool.and_eq_true, decide_eq_true_eq]
        exact ⟨⟨⟨hlo, ha⟩, hv⟩, h4⟩
      · simp only [Memory.insert, hac, hea, if_false, Memory.wfFrom, Bool.and_eq_true, decide_eq_true_eq]
        exact ⟨⟨⟨h1, h2⟩, h3⟩, ih h4 (by omega)⟩

theorem Memory.wfFrom_erase {m : Memory} {lo : Nat} (a : Nat) (h : Memory.wfFrom lo m = true) :
    Memory.wfFrom lo (Memory.erase a m) = true := by
  induction m generalizing lo with
  | nil => rfl
  | cons c rest ih =>
    obtain ⟨c, w⟩ := c
    simp only [Memory.wfFrom, Bool.and_eq_true, decide_eq_true_eq] at h
    obtain ⟨⟨⟨h1, h2⟩, h3⟩, h4⟩ := h
    by_cases hc : c = a
    · simpa [Memory.erase, hc] using Memory.wfFrom_mono h4 (by omega)
    · simp only [Memory.erase, hc, if_false, Memory.wfFrom, Bool.and_eq_true, decide_eq_true_eq]
      exact ⟨⟨⟨h1, h2⟩, h3⟩, ih h4⟩

/-- A write keeps the canonical form. -/
theorem Memory.wf_write {m : Memory} (h : m.wf = true) (a : Nat) (v : Byte) : (m.write a v).wf = true := by
  unfold Memory.write
  split
  · split
    · exact Memory.wfFrom_erase a h
    · exact Memory.wfFrom_insert h (Nat.zero_le a) ‹_› ‹_›
  · exact h

/-- Writing a run of bytes keeps the canonical form. -/
theorem Memory.wf_writeBytes {m : Memory} (h : m.wf = true) (a : Nat) (bytes : List Byte) :
    (m.writeBytes a bytes).wf = true := by
  induction bytes generalizing m a with
  | nil => exact h
  | cons v rest ih => exact ih (Memory.wf_write h a v) (a + 1)

/-- The reset memory lists nothing. -/
theorem Memory.wf_reset : State.reset.mem.wf = true := rfl

/-! ### A read after a write -/

/-- In a memory in canonical form, a read after a write inside `mem` gives the value written at that address and is
unchanged everywhere else. -/
theorem Memory.read_write {m : Memory} (h : m.wf = true) {a : Nat} (ha : a < Config.memSize) (v : Byte) (b : Nat) :
    (m.write a v).read b = if b = a then v else m.read b := by
  by_cases hv : v = unlistedByte a
  · rw [Memory.write, if_pos ha, if_pos hv, Memory.read, Memory.lookup_erase h]
    by_cases hb : b = a
    · simp [hb, hv]
    · simp [hb, Memory.read]
  · rw [Memory.write, if_pos ha, if_neg hv, Memory.read, Memory.lookup_insert]
    by_cases hb : b = a
    · simp [hb]
    · simp [hb, Ne.symm hb, Memory.read]

/-- A run of bytes reads back in place, and every other address is unchanged. -/
theorem Memory.read_writeBytes {m : Memory} (h : m.wf = true) {a : Nat} {bytes : List Byte}
    (ha : a + bytes.length ≤ Config.memSize) (b : Nat) :
    (m.writeBytes a bytes).read b =
      if a ≤ b ∧ b < a + bytes.length then bytes.getD (b - a) 0 else m.read b := by
  induction bytes generalizing m a with
  | nil => simp [Memory.writeBytes]
  | cons v rest ih =>
    have hlen : a + 1 + rest.length ≤ Config.memSize := by simp only [List.length_cons] at ha; omega
    have hlt : a < Config.memSize := by omega
    rw [Memory.writeBytes, ih (Memory.wf_write h a v) hlen, Memory.read_write h hlt]
    simp only [List.length_cons]
    by_cases hb : b = a
    · subst hb
      simp
    · by_cases hin : a + 1 ≤ b ∧ b < a + 1 + rest.length
      · have hout : a ≤ b ∧ b < a + (rest.length + 1) := ⟨by omega, by omega⟩
        obtain ⟨k, hk⟩ : ∃ k, b - a = k + 1 := ⟨b - a - 1, by omega⟩
        have hk' : b - (a + 1) = k := by omega
        simp [hin, hout, hk, hk']
      · have hout : ¬ (a ≤ b ∧ b < a + (rest.length + 1)) := fun hc => hin ⟨by omega, by omega⟩
        rw [if_neg hin, if_neg hout, if_neg hb]

end Sys2Proof.Machine
end

