-- ==== Sys2Proof/Laws/Ops.lean ====
section
/-!
SUPPORT. What each shared operation can do, once: registers, result and flag writes, the footprint guard, the key guard, register
ranges and digits, the host precondition, the free choice of a key, and the step.
-/

namespace Sys2Proof.Machine

/-! ### Registers -/

/-- The shape of an instruction that writes one register and no flag. -/
theorem writeAndAdvance_writesReg (s : State) (x : Reg) (v : Byte) : WritesReg (writeAndAdvance x v s) s x v :=
  ⟨_, rfl, rfl, by simp, fun r h => by simp [State.readV_writeV, h]⟩

/-- The shape of an instruction that writes a result and a flag, the flag last (42_alu.md R82). -/
theorem writeResultFlag_writesRegAndFlag (s : State) (x : Reg) (v : Byte) (flag : Bool) :
    WritesRegAndFlag (.next (s.writeResultFlag x v flag)) s x v.toNat flag := by
  refine ⟨_, rfl, rfl, ?_, fun h => ?_, fun r h h' => ?_⟩
  · cases flag <;> simp [State.readV_writeResultFlag, flagReg, flagByte]
  · simp [State.readV_writeResultFlag, flagReg, h]
  · simp [State.readV_writeResultFlag, flagReg, h, h']

/-! ### Register ranges and digits (43_index_memory.md R98-R100) -/

@[simp] theorem State.regsUpTo_length (s : State) (x : Reg) : (s.regsUpTo x).length = x.val + 1 := by
  simp [State.regsUpTo]

/-- The k-th byte of the range is `V[k]`. -/
theorem State.regsUpTo_getD (s : State) {x k : Reg} (h : k ≤ x) : (s.regsUpTo x).getD k.val 0 = s.readV k := by
  have hk : k.val < x.val + 1 := Nat.lt_succ_of_le h
  simp [State.regsUpTo, State.readV, Vector.get_eq_getElem, List.getD_eq_getElem?_getD, hk]

/-- What Fx65 leaves in each register. -/
theorem State.loadedRegs_get (s : State) (x k : Reg) :
    (s.loadedRegs x).get k = if k ≤ x then s.mem.read (s.idx.toNat + k.val) else s.readV k := by
  simp [State.loadedRegs, State.readV, Vector.get_eq_getElem]

@[simp] theorem bcdDigits_length (v : Byte) : (bcdDigits v).length = 3 := rfl

/-! ### The footprint guard (20_memory.md R35) -/

theorem guardFootprint_inside {n : Nat} {s : State} (act : Result) (h : n = 0 ∨ s.idx.toNat + n ≤ 0x1000) :
    guardFootprint n s act = act := by
  unfold guardFootprint
  rw [if_neg (by omega)]

theorem guardFootprint_outside {n : Nat} {s : State} (act : Result) (hn : 1 ≤ n) (h : s.idx.toNat + n > 0x1000) :
    guardFootprint n s act = raise .dataAddressOutOfRange (max s.idx.toNat 0x1000) s := by
  unfold guardFootprint
  rw [if_pos (by omega)]

/-- The guard either lets the access happen or raises, and says when. -/
theorem guardFootprint_cases (n : Nat) (s : State) (act : Result) :
    ((n = 0 ∨ s.idx.toNat + n ≤ 0x1000) ∧ guardFootprint n s act = act) ∨
    (1 ≤ n ∧ s.idx.toNat + n > 0x1000 ∧
      guardFootprint n s act = raise .dataAddressOutOfRange (max s.idx.toNat 0x1000) s) := by
  by_cases h : n = 0 ∨ s.idx.toNat + n ≤ 0x1000
  · exact .inl ⟨h, guardFootprint_inside act h⟩
  · exact .inr ⟨by omega, by omega, guardFootprint_outside act (by omega) (by omega)⟩

/-! ### The key guard (45_keypad_timer_instr.md R111, R112) -/

theorem withKey_of_key {x : Reg} {s : State} {act : Bool → Result} (k : Key) (h : (s.readV x).toNat = k.val) :
    withKey x s act = act (s.keypad.get k) := by
  have hk : (s.readV x).toNat < 16 := h ▸ k.isLt
  have hfin : (⟨(s.readV x).toNat, hk⟩ : Fin 16) = k := Fin.ext h
  simp only [withKey, hk, dif_pos, hfin]

theorem withKey_of_large {x : Reg} {s : State} {act : Bool → Result} (h : (s.readV x).toNat > 15) :
    withKey x s act = raise .keyIndexOutOfRange (s.readV x).toNat s := by
  simp only [withKey, dif_neg (show ¬ (s.readV x).toNat < 16 by omega)]

/-- The guard either tests the key `V[x]` or raises, and says when. -/
theorem withKey_cases (x : Reg) (s : State) (act : Bool → Result) :
    (∃ k : Key, (s.readV x).toNat = k.val ∧ withKey x s act = act (s.keypad.get k)) ∨
    ((s.readV x).toNat > 15 ∧ withKey x s act = raise .keyIndexOutOfRange (s.readV x).toNat s) := by
  by_cases h : (s.readV x).toNat < 16
  · exact .inl ⟨⟨_, h⟩, rfl, withKey_of_key ⟨_, h⟩ rfl⟩
  · exact .inr ⟨by omega, withKey_of_large (by omega)⟩

/-! ### The host precondition -/

theorem whileRunning_running {s : State} (act : Result) (h : s.status = .running) : whileRunning s act = act := by
  simp [whileRunning, h]

theorem whileRunning_notStarted {s : State} (act : Result) (h : s.status = .notStarted) :
    whileRunning s act = .refused .notStarted := by
  simp [whileRunning, h]

theorem whileRunning_faulted {s : State} (act : Result) {c : FaultCause} {k : Nat} (h : s.status = .faulted c k) :
    whileRunning s act = .refused .whileFaulted := by
  simp [whileRunning, h]

/-- A guarded operation that completes was invoked while RUNNING. -/
theorem whileRunning_next {s t : State} {act : Result} (h : whileRunning s act = .next t) :
    s.status = .running ∧ act = .next t := by
  unfold whileRunning at h
  split at h
  · exact ⟨by assumption, h⟩
  · cases h
  · cases h

/-! ### The choice of a key -/

/-- A key is down exactly when it is listed. -/
@[simp] theorem State.mem_pressedKeys (s : State) (k : Key) : k ∈ s.pressedKeys ↔ s.keypad.get k = true := by
  simp [State.pressedKeys]

/-- The chosen key is one of the keys chosen from. -/
theorem chooseKey_mem (pick : Nat) (k : Key) (rest : List Key) : chooseKey pick k rest ∈ k :: rest := by
  have h : pick % (rest.length + 1) < (k :: rest).length := by simpa using Nat.mod_lt pick (Nat.succ_pos _)
  rw [chooseKey, List.getD_eq_getElem _ _ h]
  exact List.getElem_mem h

/-! ### The step -/

theorem step_running {s : State} (h : s.status = .running) : step s = fetchDecodeExecute exec s := by
  simp [step, h]

theorem step_of_decoded {s : State} {i : Instr} (h : s.status = .running) (hpc : s.pc.toNat ≤ 0xFFE)
    (hd : decodeWord s.fetchWord = some i) : step s = exec i s := by
  simp [step_running h, fetchDecodeExecute, State.fetchable, hpc, hd]

/-- Everything a `Step` can do when it answers a next state. -/
theorem step_cases {s t : State} (h : step s = .next t) :
    (∃ c k, s.status = .faulted c k ∧ t = s) ∨
    (s.status = .running ∧ s.pc.toNat > 0xFFE ∧ t = { s with status := .faulted .fetchOutOfRange s.pc.toNat }) ∨
    (s.status = .running ∧ s.pc.toNat ≤ 0xFFE ∧ decodeWord s.fetchWord = none ∧
      t = { s with diagLog := s.diagLog ++ [.unknownOpcode s.fetchWord s.pc], pc := s.pc + 2 }) ∨
    (s.status = .running ∧ s.pc.toNat ≤ 0xFFE ∧ ∃ i, decodeWord s.fetchWord = some i ∧ exec i s = .next t) := by
  cases hs : s.status with
  | notStarted => simp [step, hs] at h
  | faulted c k =>
    simp only [step, hs, Host.Outcome.next.injEq] at h
    exact .inl ⟨c, k, rfl, h.symm⟩
  | running =>
    rw [step_running hs] at h
    by_cases hpc : s.pc.toNat ≤ 0xFFE
    · cases hd : decodeWord s.fetchWord with
      | none =>
        simp only [fetchDecodeExecute, State.fetchable, hpc, decide_true, if_true, hd, unknownOpcode,
          Host.Outcome.next.injEq] at h
        exact .inr (.inr (.inl ⟨rfl, hpc, rfl, by rw [← h, hs]⟩))
      | some i =>
        simp only [fetchDecodeExecute, State.fetchable, hpc, decide_true, if_true, hd] at h
        exact .inr (.inr (.inr ⟨rfl, hpc, i, rfl, h⟩))
    · simp only [fetchDecodeExecute, State.fetchable, hpc, decide_false, Bool.false_eq_true, if_false, raise,
        Host.Outcome.next.injEq] at h
      exact .inr (.inl ⟨rfl, by omega, h.symm⟩)

end Sys2Proof.Machine
end

