-- ==== Sys2Proof/Laws/PerInstr.lean ====
section
/-!
SUPPORT. The statements about all instructions that are made one constructor at a time.
-/

namespace Sys2Proof.Laws.RowOfWord

/-- The word an instruction encodes to carries the fixed digits of the instruction's row: `(op & mask) = match`
(spec/30_encoding.md R48, R50). -/
def Statement (i : Instr) : Prop := i.row.accepts (encode i) = true

/-- A row of format A, XK or XYN accepts a word of its family. -/
theorem accepts_of_family {m : String} {op : Word} (f : BitVec 4) (hf : familyField op = f) :
    (OpcodeRow.mk m (encA f 0#12) 0xF000#16).accepts op = true := (accepts_family_iff m f op).2 hf

/-- A row of format XY accepts a word of its family and low nibble. -/
theorem accepts_of_nibbles {m : String} {op : Word} (f n : BitVec 4) (hf : familyField op = f) (hn : nField op = n) :
    (OpcodeRow.mk m (encXYN f 0 0 n) 0xF00F#16).accepts op = true := (accepts_nibbles_iff m f n op).2 ⟨hf, hn⟩

/-- A row of format X accepts a word of its family and low byte. -/
theorem accepts_of_byte {m : String} {op : Word} (f : BitVec 4) (kk : Byte) (hf : familyField op = f) (hk : kkField op = kk) :
    (OpcodeRow.mk m (encXK f 0 kk) 0xF0FF#16).accepts op = true := (accepts_byte_iff m f kk op).2 ⟨hf, hk⟩

theorem cls : Statement (.cls) :=
  rfl
theorem ret : Statement (.ret) :=
  rfl
theorem jp (nnn : Addr12) : Statement (.jp nnn) :=
  accepts_of_family 0x1#4 (familyField_encA _ _)
theorem call (nnn : Addr12) : Statement (.call nnn) :=
  accepts_of_family 0x2#4 (familyField_encA _ _)
theorem seImm (x : Reg) (kk : Byte) : Statement (.seImm x kk) :=
  accepts_of_family 0x3#4 (familyField_encXK _ _ _)
theorem sneImm (x : Reg) (kk : Byte) : Statement (.sneImm x kk) :=
  accepts_of_family 0x4#4 (familyField_encXK _ _ _)
theorem seReg (x y : Reg) : Statement (.seReg x y) :=
  accepts_of_nibbles 0x5#4 0x0#4 (familyField_encXYN _ _ _ _) (nField_encXYN _ _ _ _)
theorem sneReg (x y : Reg) : Statement (.sneReg x y) :=
  accepts_of_nibbles 0x9#4 0x0#4 (familyField_encXYN _ _ _ _) (nField_encXYN _ _ _ _)
theorem ldImm (x : Reg) (kk : Byte) : Statement (.ldImm x kk) :=
  accepts_of_family 0x6#4 (familyField_encXK _ _ _)
theorem addImm (x : Reg) (kk : Byte) : Statement (.addImm x kk) :=
  accepts_of_family 0x7#4 (familyField_encXK _ _ _)
theorem ldReg (x y : Reg) : Statement (.ldReg x y) :=
  accepts_of_nibbles 0x8#4 0x0#4 (familyField_encXYN _ _ _ _) (nField_encXYN _ _ _ _)
theorem orReg (x y : Reg) : Statement (.orReg x y) :=
  accepts_of_nibbles 0x8#4 0x1#4 (familyField_encXYN _ _ _ _) (nField_encXYN _ _ _ _)
theorem andReg (x y : Reg) : Statement (.andReg x y) :=
  accepts_of_nibbles 0x8#4 0x2#4 (familyField_encXYN _ _ _ _) (nField_encXYN _ _ _ _)
theorem xorReg (x y : Reg) : Statement (.xorReg x y) :=
  accepts_of_nibbles 0x8#4 0x3#4 (familyField_encXYN _ _ _ _) (nField_encXYN _ _ _ _)
theorem addReg (x y : Reg) : Statement (.addReg x y) :=
  accepts_of_nibbles 0x8#4 0x4#4 (familyField_encXYN _ _ _ _) (nField_encXYN _ _ _ _)
theorem subReg (x y : Reg) : Statement (.subReg x y) :=
  accepts_of_nibbles 0x8#4 0x5#4 (familyField_encXYN _ _ _ _) (nField_encXYN _ _ _ _)
theorem shr (x y : Reg) : Statement (.shr x y) :=
  accepts_of_nibbles 0x8#4 0x6#4 (familyField_encXYN _ _ _ _) (nField_encXYN _ _ _ _)
theorem subnReg (x y : Reg) : Statement (.subnReg x y) :=
  accepts_of_nibbles 0x8#4 0x7#4 (familyField_encXYN _ _ _ _) (nField_encXYN _ _ _ _)
theorem shl (x y : Reg) : Statement (.shl x y) :=
  accepts_of_nibbles 0x8#4 0xE#4 (familyField_encXYN _ _ _ _) (nField_encXYN _ _ _ _)
theorem ldI (nnn : Addr12) : Statement (.ldI nnn) :=
  accepts_of_family 0xA#4 (familyField_encA _ _)
theorem jpV0 (nnn : Addr12) : Statement (.jpV0 nnn) :=
  accepts_of_family 0xB#4 (familyField_encA _ _)
theorem rnd (x : Reg) (kk : Byte) : Statement (.rnd x kk) :=
  accepts_of_family 0xC#4 (familyField_encXK _ _ _)
theorem drw (x y : Reg) (n : Nat) : Statement (.drw x y n) :=
  accepts_of_family 0xD#4 (familyField_encXYN _ _ _ _)
theorem skp (x : Reg) : Statement (.skp x) :=
  accepts_of_byte 0xE#4 0x9E#8 (familyField_encXK _ _ _) (kkField_encXK _ _ _)
theorem sknp (x : Reg) : Statement (.sknp x) :=
  accepts_of_byte 0xE#4 0xA1#8 (familyField_encXK _ _ _) (kkField_encXK _ _ _)
theorem ldVxDT (x : Reg) : Statement (.ldVxDT x) :=
  accepts_of_byte 0xF#4 0x07#8 (familyField_encXK _ _ _) (kkField_encXK _ _ _)
theorem ldVxK (x : Reg) : Statement (.ldVxK x) :=
  accepts_of_byte 0xF#4 0x0A#8 (familyField_encXK _ _ _) (kkField_encXK _ _ _)
theorem ldDTVx (x : Reg) : Statement (.ldDTVx x) :=
  accepts_of_byte 0xF#4 0x15#8 (familyField_encXK _ _ _) (kkField_encXK _ _ _)
theorem ldSTVx (x : Reg) : Statement (.ldSTVx x) :=
  accepts_of_byte 0xF#4 0x18#8 (familyField_encXK _ _ _) (kkField_encXK _ _ _)
theorem addI (x : Reg) : Statement (.addI x) :=
  accepts_of_byte 0xF#4 0x1E#8 (familyField_encXK _ _ _) (kkField_encXK _ _ _)
theorem ldF (x : Reg) : Statement (.ldF x) :=
  accepts_of_byte 0xF#4 0x29#8 (familyField_encXK _ _ _) (kkField_encXK _ _ _)
theorem ldB (x : Reg) : Statement (.ldB x) :=
  accepts_of_byte 0xF#4 0x33#8 (familyField_encXK _ _ _) (kkField_encXK _ _ _)
theorem storeRegs (x : Reg) : Statement (.storeRegs x) :=
  accepts_of_byte 0xF#4 0x55#8 (familyField_encXK _ _ _) (kkField_encXK _ _ _)
theorem loadRegs (x : Reg) : Statement (.loadRegs x) :=
  accepts_of_byte 0xF#4 0x65#8 (familyField_encXK _ _ _) (kkField_encXK _ _ _)

end Sys2Proof.Laws.RowOfWord
end

