-- ==== Sys2Proof/Laws/Projections.lean ====
section
/-!
SUPPORT. The projections of a state that Safety.lean uses to say what no instruction reads: their fields, one lemma each.
-/

namespace Sys2Proof.Machine

variable (s : State)

/-! ### `withoutUnread` -/

@[simp] theorem State.withoutUnread_V : s.withoutUnread.V = s.V := rfl
@[simp] theorem State.withoutUnread_idx : s.withoutUnread.idx = s.idx := rfl
@[simp] theorem State.withoutUnread_pc : s.withoutUnread.pc = s.pc := rfl
@[simp] theorem State.withoutUnread_stack : s.withoutUnread.stack = s.stack := rfl
@[simp] theorem State.withoutUnread_sp : s.withoutUnread.sp = s.sp := rfl
@[simp] theorem State.withoutUnread_mem : s.withoutUnread.mem = s.mem := rfl
@[simp] theorem State.withoutUnread_gfx : s.withoutUnread.gfx = s.gfx := rfl
@[simp] theorem State.withoutUnread_delayTimer : s.withoutUnread.delayTimer = s.delayTimer := rfl
@[simp] theorem State.withoutUnread_keypad : s.withoutUnread.keypad = s.keypad := rfl
@[simp] theorem State.withoutUnread_status : s.withoutUnread.status = s.status := rfl
@[simp] theorem State.withoutUnread_freeIndex : s.withoutUnread.freeIndex = s.freeIndex := rfl

/-! ### `withoutDrawFlag` -/

@[simp] theorem State.withoutDrawFlag_V : s.withoutDrawFlag.V = s.V := rfl
@[simp] theorem State.withoutDrawFlag_idx : s.withoutDrawFlag.idx = s.idx := rfl
@[simp] theorem State.withoutDrawFlag_pc : s.withoutDrawFlag.pc = s.pc := rfl
@[simp] theorem State.withoutDrawFlag_stack : s.withoutDrawFlag.stack = s.stack := rfl
@[simp] theorem State.withoutDrawFlag_sp : s.withoutDrawFlag.sp = s.sp := rfl
@[simp] theorem State.withoutDrawFlag_mem : s.withoutDrawFlag.mem = s.mem := rfl
@[simp] theorem State.withoutDrawFlag_gfx : s.withoutDrawFlag.gfx = s.gfx := rfl
@[simp] theorem State.withoutDrawFlag_delayTimer : s.withoutDrawFlag.delayTimer = s.delayTimer := rfl
@[simp] theorem State.withoutDrawFlag_soundTimer : s.withoutDrawFlag.soundTimer = s.soundTimer := rfl
@[simp] theorem State.withoutDrawFlag_keypad : s.withoutDrawFlag.keypad = s.keypad := rfl
@[simp] theorem State.withoutDrawFlag_status : s.withoutDrawFlag.status = s.status := rfl
@[simp] theorem State.withoutDrawFlag_diagLog : s.withoutDrawFlag.diagLog = s.diagLog := rfl
@[simp] theorem State.withoutDrawFlag_freeIndex : s.withoutDrawFlag.freeIndex = s.freeIndex := rfl

/-! ### `withoutSoundTimer` -/

@[simp] theorem State.withoutSoundTimer_V : s.withoutSoundTimer.V = s.V := rfl
@[simp] theorem State.withoutSoundTimer_idx : s.withoutSoundTimer.idx = s.idx := rfl
@[simp] theorem State.withoutSoundTimer_pc : s.withoutSoundTimer.pc = s.pc := rfl
@[simp] theorem State.withoutSoundTimer_stack : s.withoutSoundTimer.stack = s.stack := rfl
@[simp] theorem State.withoutSoundTimer_sp : s.withoutSoundTimer.sp = s.sp := rfl
@[simp] theorem State.withoutSoundTimer_mem : s.withoutSoundTimer.mem = s.mem := rfl
@[simp] theorem State.withoutSoundTimer_gfx : s.withoutSoundTimer.gfx = s.gfx := rfl
@[simp] theorem State.withoutSoundTimer_delayTimer : s.withoutSoundTimer.delayTimer = s.delayTimer := rfl
@[simp] theorem State.withoutSoundTimer_keypad : s.withoutSoundTimer.keypad = s.keypad := rfl
@[simp] theorem State.withoutSoundTimer_drawFlag : s.withoutSoundTimer.drawFlag = s.drawFlag := rfl
@[simp] theorem State.withoutSoundTimer_status : s.withoutSoundTimer.status = s.status := rfl
@[simp] theorem State.withoutSoundTimer_diagLog : s.withoutSoundTimer.diagLog = s.diagLog := rfl
@[simp] theorem State.withoutSoundTimer_freeIndex : s.withoutSoundTimer.freeIndex = s.freeIndex := rfl

/-! ### `withoutDiagLog` -/

@[simp] theorem State.withoutDiagLog_V : s.withoutDiagLog.V = s.V := rfl
@[simp] theorem State.withoutDiagLog_idx : s.withoutDiagLog.idx = s.idx := rfl
@[simp] theorem State.withoutDiagLog_pc : s.withoutDiagLog.pc = s.pc := rfl
@[simp] theorem State.withoutDiagLog_stack : s.withoutDiagLog.stack = s.stack := rfl
@[simp] theorem State.withoutDiagLog_sp : s.withoutDiagLog.sp = s.sp := rfl
@[simp] theorem State.withoutDiagLog_mem : s.withoutDiagLog.mem = s.mem := rfl
@[simp] theorem State.withoutDiagLog_gfx : s.withoutDiagLog.gfx = s.gfx := rfl
@[simp] theorem State.withoutDiagLog_delayTimer : s.withoutDiagLog.delayTimer = s.delayTimer := rfl
@[simp] theorem State.withoutDiagLog_soundTimer : s.withoutDiagLog.soundTimer = s.soundTimer := rfl
@[simp] theorem State.withoutDiagLog_keypad : s.withoutDiagLog.keypad = s.keypad := rfl
@[simp] theorem State.withoutDiagLog_drawFlag : s.withoutDiagLog.drawFlag = s.drawFlag := rfl
@[simp] theorem State.withoutDiagLog_status : s.withoutDiagLog.status = s.status := rfl
@[simp] theorem State.withoutDiagLog_freeIndex : s.withoutDiagLog.freeIndex = s.freeIndex := rfl

/-! ### `withoutStale` -/

@[simp] theorem State.withoutStale_V : s.withoutStale.V = s.V := rfl
@[simp] theorem State.withoutStale_idx : s.withoutStale.idx = s.idx := rfl
@[simp] theorem State.withoutStale_pc : s.withoutStale.pc = s.pc := rfl
@[simp] theorem State.withoutStale_sp : s.withoutStale.sp = s.sp := rfl
@[simp] theorem State.withoutStale_mem : s.withoutStale.mem = s.mem := rfl
@[simp] theorem State.withoutStale_gfx : s.withoutStale.gfx = s.gfx := rfl
@[simp] theorem State.withoutStale_delayTimer : s.withoutStale.delayTimer = s.delayTimer := rfl
@[simp] theorem State.withoutStale_soundTimer : s.withoutStale.soundTimer = s.soundTimer := rfl
@[simp] theorem State.withoutStale_keypad : s.withoutStale.keypad = s.keypad := rfl
@[simp] theorem State.withoutStale_drawFlag : s.withoutStale.drawFlag = s.drawFlag := rfl
@[simp] theorem State.withoutStale_status : s.withoutStale.status = s.status := rfl
@[simp] theorem State.withoutStale_diagLog : s.withoutStale.diagLog = s.diagLog := rfl
@[simp] theorem State.withoutStale_freeIndex : s.withoutStale.freeIndex = s.freeIndex := rfl

/-- A live entry is kept. -/
theorem State.withoutStale_live (j : Fin 16) (h : j.val < s.sp.val) : s.withoutStale.stack.get j = s.stack.get j := by
  simp [State.withoutStale, Vector.get_eq_getElem, h]

/-- Replacing the stack by one with the same live entries is not seen. -/
theorem State.withoutStale_congr (stack : Vector Word 16)
    (h : ∀ j : Fin 16, j.val < s.sp.val → stack.get j = s.stack.get j) :
    State.withoutStale { s with stack := stack } = s.withoutStale := by
  simp only [State.withoutStale]
  congr 1
  apply Vector.ext
  intro j hj
  simp only [Vector.getElem_ofFn]
  split
  · exact h ⟨j, hj⟩ (by assumption)
  · rfl

end Sys2Proof.Machine
end

