-- ==== Sys2Proof/Tests/Slice0.lean ====
section
/-!
SUPPORT. Tests. Words are written out bit by bit from the encodings of spec/30_encoding.md R50; expected results are those of
spec/95_test_vectors.md, whose row is named at each test. At the end: for every obligation with hypotheses, a state and operands
that meet them, at the boundaries of their ranges.
-/

namespace Sys2Proof.Tests

open Sys2Proof Sys2Proof.Machine

/-! ### Small states -/

/-- The reset state with some registers set. -/
def regs (vs : List (Reg × Byte)) : State := vs.foldl (fun s p => s.writeV p.1 p.2) State.reset

/-- Bytes stored from an address up. -/
def poke (a : Nat) (bytes : List Byte) (s : State) : State := { s with mem := s.mem.writeBytes a bytes }

/-- A key down. -/
def press (k : Key) (s : State) : State := { s with keypad := s.keypad.set k.val true k.isLt }

/-- The state after one step from `s` with the word `w` at `pc`. -/
def after (s : State) (w : Nat) : Option State :=
  match step (s.withFetchWord 16 w) with
  | .next t => some t
  | _ => none

/-! ### Well-formedness refuses an ill-formed term (one check: the row count of Dxyn) -/

theorem test_wellFormed_refuses_row_count_16 : (Instr.drw 0 0 16).wellFormed = false := by decide

theorem test_wellFormed_accepts_row_count_15 : (Instr.drw 0 0 15).wellFormed = true := by decide

/-! ### Decoding, by word written out from the pattern -/

theorem test_decode_control :
    decodeWord 0b0000000011100000#16 = some .cls ∧
    decodeWord 0b0000000011101110#16 = some .ret ∧
    decodeWord 0b0001101010111100#16 = some (.jp 0xABC) ∧
    decodeWord 0b0010001000001010#16 = some (.call 0x20A) ∧
    decodeWord 0b1011001111111111#16 = some (.jpV0 0x3FF) := by decide

theorem test_decode_skips :
    decodeWord 0b0011001100101010#16 = some (.seImm 3 0x2A) ∧
    decodeWord 0b0100001100101011#16 = some (.sneImm 3 0x2B) ∧
    decodeWord 0b0101000100100000#16 = some (.seReg 1 2) ∧
    decodeWord 0b1001000100100000#16 = some (.sneReg 1 2) ∧
    decodeWord 0b1110000110011110#16 = some (.skp 1) ∧
    decodeWord 0b1110000110100001#16 = some (.sknp 1) := by decide

theorem test_decode_immediates :
    decodeWord 0b0110101000111100#16 = some (.ldImm 10 0x3C) ∧
    decodeWord 0b0111001001100100#16 = some (.addImm 2 0x64) ∧
    decodeWord 0b1010001011110000#16 = some (.ldI 0x2F0) ∧
    decodeWord 0b1100000111111111#16 = some (.rnd 1 0xFF) ∧
    decodeWord 0b1101000000010101#16 = some (.drw 0 1 5) := by decide

theorem test_decode_family8 :
    decodeWord 0b1000000100100000#16 = some (.ldReg 1 2) ∧
    decodeWord 0b1000000100100001#16 = some (.orReg 1 2) ∧
    decodeWord 0b1000000100100010#16 = some (.andReg 1 2) ∧
    decodeWord 0b1000000100100011#16 = some (.xorReg 1 2) ∧
    decodeWord 0b1000000100100100#16 = some (.addReg 1 2) ∧
    decodeWord 0b1000000100100101#16 = some (.subReg 1 2) ∧
    decodeWord 0b1000000100100110#16 = some (.shr 1 2) ∧
    decodeWord 0b1000000100100111#16 = some (.subnReg 1 2) ∧
    decodeWord 0b1000000100101110#16 = some (.shl 1 2) := by decide

theorem test_decode_familyF :
    decodeWord 0b1111010100000111#16 = some (.ldVxDT 5) ∧
    decodeWord 0b1111001100001010#16 = some (.ldVxK 3) ∧
    decodeWord 0b1111010100010101#16 = some (.ldDTVx 5) ∧
    decodeWord 0b1111010100011000#16 = some (.ldSTVx 5) ∧
    decodeWord 0b1111010000011110#16 = some (.addI 4) ∧
    decodeWord 0b1111001000101001#16 = some (.ldF 2) ∧
    decodeWord 0b1111010100110011#16 = some (.ldB 5) ∧
    decodeWord 0b1111001001010101#16 = some (.storeRegs 2) ∧
    decodeWord 0b1111001001100101#16 = some (.loadRegs 2) := by decide

/-- T40-1 to T40-10: words that are no instruction. -/
theorem test_decode_rejects :
    [0x0000#16, 0x5121, 0x9121, 0x8128, 0x812F, 0x00E1, 0x0EE0, 0xE19F, 0xF1FF, 0xF11F].map decodeWord
      = List.replicate 10 none := by decide

/-- The byte decoder names what it rejects and takes two bytes, high byte first. -/
theorem test_decode_bytes :
    decode [0x12, 0x34, 0x56] = .ok (.jp 0x234, [0x56]) ∧
    decode [0x51, 0x21] = .error (.unrecognised 0x5121) ∧
    decode [0x12] = .error .truncated := ⟨rfl, rfl, rfl⟩

/-- The host's table view reads every row's word, operands 0, as the row's instruction. -/
theorem test_decodeTableWord_reads_every_row :
    opcodeTable.map (fun r => decodeTableWord 16 r.pattern.toNat) = Instr.representatives.map some := by decide

/-- Every row's word, operands 0, runs as the first instruction after reset. -/
theorem test_every_row_runs_after_reset :
    opcodeTable.all (fun r => (after State.reset r.pattern.toNat).isSome) = true := by decide

/-! ### Fetch and the unrecognised word -/

/-- T40-1. -/
theorem test_unknown_word : (after State.reset 0x0000).map (fun t => (t.pc, t.diagLog)) =
    some (0x0202, [.unknownOpcode 0x0000 0x200]) := by decide

/-- T40-15 and T40-16. -/
theorem test_fetch_out_of_range :
    (after { State.reset with pc := 0xFFF } 0).map (fun t => (t.pc, t.status)) = some (0xFFF, .faulted .fetchOutOfRange 0xFFF) ∧
    (after { State.reset with pc := 0x1000 } 0).map (·.status) = some (.faulted .fetchOutOfRange 0x1000) := by decide

/-! ### Control flow -/

/-- T41-1, T41-12 and T41-13. -/
theorem test_jumps : (after State.reset 0x1ABC).map (·.pc) = some 0xABC ∧
    (after (regs [(0, 0x04)]) 0xB300).map (·.pc) = some 0x304 ∧
    (after (regs [(0, 0xFF)]) 0xBFFF).map (·.pc) = some 0x10FE := by decide

/-- T41-6, T41-7 and T41-8. -/
theorem test_call :
    (after { State.reset with pc := 0x204 } 0x220A).map (fun t => (t.pc, t.sp, t.stack.get 0)) = some (0x20A, 1, 0x204) ∧
    (after { State.reset with pc := 0x204, sp := 15 } 0x220A).map (fun t => (t.sp, t.stack.get 15)) = some (16, 0x204) ∧
    (after { State.reset with pc := 0x204, sp := 16 } 0x220A).map (fun t => (t.pc, t.sp, t.status)) =
      some (0x204, 16, .faulted .stackOverflow 0x204) := by decide

/-- T41-9, T41-10 and T41-11. -/
theorem test_ret :
    (after { State.reset with pc := 0x20C, sp := 1, stack := State.reset.stack.set 0 0x204 } 0x00EE).map
      (fun t => (t.pc, t.sp)) = some (0x206, 0) ∧
    (after { State.reset with pc := 0x20C } 0x00EE).map (fun t => (t.pc, t.status)) =
      some (0x20C, .faulted .stackUnderflow 0x20C) ∧
    (after { State.reset with pc := 0x20C, sp := 16, stack := State.reset.stack.set 15 0xABC } 0x00EE).map
      (fun t => (t.pc, t.sp, t.stack.get 15)) = some (0xABE, 15, 0xABC) := by decide

/-- T41-16 to T41-19. -/
theorem test_skip_immediate :
    [0x332A, 0x332B, 0x432A, 0x432B].map (fun w => (after (regs [(3, 0x2A)]) w).map (·.pc)) =
      [some 0x204, some 0x202, some 0x202, some 0x204] := by decide

/-- T41-20, T41-23 (operands that differ) and T41-22, T41-25 (one register against itself). -/
theorem test_skip_register :
    [0x5120, 0x9120, 0x5110, 0x9110].map (fun w => (after (regs [(1, 0x07), (2, 0x08)]) w).map (·.pc)) =
      [some 0x202, some 0x204, some 0x204, some 0x202] := by decide

/-! ### Loads, arithmetic, logic -/

/-- T42-1 and T42-8. -/
theorem test_loads : (after State.reset 0x6A3C).map (fun t => (t.readV 10, t.pc)) = some (0x3C, 0x202) ∧
    (after (regs [(1, 0x55)]) 0x8010).map (·.readV 0) = some 0x55 := by decide

/-- T42-4 and T42-7. -/
theorem test_add_immediate :
    (after (regs [(2, 0xFF), (15, 1)]) 0x7201).map (fun t => (t.readV 2, t.readV 15)) = some (0x00, 1) ∧
    (after (regs [(2, 0xC8)]) 0x7264).map (fun t => (t.readV 2, t.readV 15)) = some (0x2C, 0) := by decide

/-- T42-9, T42-10 and T42-11. -/
theorem test_logic :
    (after (regs [(0, 0xF0), (1, 0x0F), (15, 1)]) 0x8011).map (fun t => (t.readV 0, t.readV 15)) = some (0xFF, 1) ∧
    (after (regs [(0, 0xF0), (1, 0x3C), (15, 1)]) 0x8012).map (fun t => (t.readV 0, t.readV 15)) = some (0x30, 1) ∧
    (after (regs [(0, 0xF0), (1, 0x3C), (15, 1)]) 0x8013).map (fun t => (t.readV 0, t.readV 15)) = some (0xCC, 1) := by decide

/-- T42-13 and T42-15. -/
theorem test_add : (after (regs [(1, 0xFA), (2, 0x0A)]) 0x8124).map (fun t => (t.readV 1, t.readV 15)) = some (0x04, 1) ∧
    (after (regs [(1, 0xFF), (15, 1)]) 0x8124).map (fun t => (t.readV 1, t.readV 15)) = some (0xFF, 0) := by decide

/-- T42-19 and T42-21: the flag register as destination and as operand. -/
theorem test_add_flag_register :
    (after (regs [(15, 0xC8), (1, 0x64)]) 0x8F14).map (·.readV 15) = some 1 ∧
    (after (regs [(1, 0x05), (15, 0x07)]) 0x81F4).map (fun t => (t.readV 1, t.readV 15)) = some (0x0C, 0) := by decide

/-- T42-22, T42-24 and T42-28. -/
theorem test_sub : (after (regs [(1, 5), (2, 10), (15, 1)]) 0x8125).map (fun t => (t.readV 1, t.readV 15)) = some (0xFB, 0) ∧
    (after (regs [(1, 7), (2, 7)]) 0x8125).map (fun t => (t.readV 1, t.readV 15)) = some (0, 1) ∧
    (after (regs [(15, 3), (1, 5)]) 0x8F15).map (·.readV 15) = some 0 := by decide

/-- T42-37 and T42-38. -/
theorem test_subn : (after (regs [(1, 5), (2, 10)]) 0x8127).map (fun t => (t.readV 1, t.readV 15)) = some (5, 1) ∧
    (after (regs [(1, 10), (2, 5), (15, 1)]) 0x8127).map (fun t => (t.readV 1, t.readV 15)) = some (0xFB, 0) := by decide

/-- T42-34 and T42-36. -/
theorem test_shr : (after (regs [(3, 5), (4, 0xF0)]) 0x8346).map (fun t => (t.readV 3, t.readV 15)) = some (2, 1) ∧
    (after (regs [(15, 2)]) 0x8F06).map (·.readV 15) = some 0 := by decide

/-- T42-45 and T42-41. -/
theorem test_shl : (after (regs [(3, 0x41), (4, 0x80)]) 0x834E).map (fun t => (t.readV 3, t.readV 15)) = some (0x82, 0) ∧
    (after (regs [(3, 0x81)]) 0x830E).map (fun t => (t.readV 3, t.readV 15)) = some (2, 1) := by decide

/-- T42-48 to T42-50 with the drawn byte left free: the masked draw is written, and the next draw is another one. -/
theorem test_rnd : (after State.reset 0xC10F).map (fun t => (t.readV 1, t.pc, t.freeIndex)) =
    some (Config.freeByte 0 &&& 0x0F, 0x202, 1) := rfl

/-! ### Index and memory -/

/-- T43-2, T43-4 and T43-5. -/
theorem test_index : (after { State.reset with idx := 0x1234 } 0xAFFF).map (·.idx) = some 0xFFF ∧
    (after { regs [(4, 1)] with idx := 0xFFF } 0xF41E).map (fun t => (t.idx, t.readV 15)) = some (0x1000, 0) ∧
    (after { regs [(4, 2)] with idx := 0xFFFF } 0xF41E).map (·.idx) = some 0x0001 := by decide

/-- T43-8 and T43-12. -/
theorem test_glyph : (after (regs [(2, 0x0A)]) 0xF229).map (·.idx) = some 0x82 ∧
    (after (regs [(2, 0xFF)]) 0xF229).map (·.idx) = some 0x54B := by decide

/-- T43-13 and T43-19. -/
theorem test_bcd :
    (after { regs [(5, 0x9D)] with idx := 0x300 } 0xF533).map (fun t => ([0x300, 0x301, 0x302].map t.mem.read, t.idx)) =
      some ([1, 5, 7], 0x300) ∧
    (after { regs [(5, 0x7B)] with idx := 0xFFE } 0xF533).map (fun t => (t.mem.read 0xFFE, t.pc, t.status)) =
      some (0, 0x200, .faulted .dataAddressOutOfRange 0x1000) := by decide

/-- T43-22 and T43-27. -/
theorem test_store_registers :
    (after { regs [(0, 1), (1, 5), (2, 7), (3, 0xEE)] with idx := 0x300 } 0xF255).map
      (fun t => ([0x300, 0x301, 0x302, 0x303].map t.mem.read, t.idx)) = some ([1, 5, 7, 0], 0x303) ∧
    (after { regs [(0, 1)] with idx := 0x1000 } 0xF055).map (·.status) = some (.faulted .dataAddressOutOfRange 0x1000) := by
  decide

/-- T43-30 and T43-34 (the font bytes of glyph 0). -/
theorem test_load_registers :
    (after (poke 0x300 [1, 5, 7, 9] { regs [(3, 0x77)] with idx := 0x300 }) 0xF265).map
      (fun t => ([0, 1, 2, 3].map t.readV, t.idx)) = some ([1, 5, 7, 0x77], 0x303) ∧
    (after { State.reset with idx := 0x50 } 0xF465).map (fun t => ([0, 1, 2, 3, 4].map t.readV, t.idx)) =
      some ([0xF0, 0x90, 0x90, 0x90, 0xF0], 0x55) := by decide

/-! ### Display -/

/-- T44-1: the sprite wraps at the right edge; a cell beside it stays blank. -/
theorem test_draw_wraps :
    (after (poke 0x300 [0xF0] { regs [(0, 0x3E), (1, 0x1F)] with idx := 0x300 }) 0xD011).map
      (fun t => ([1984, 1985, 2046, 2047, 1986].map t.gfx.get, t.readV 15, t.drawFlag)) =
      some ([true, true, true, true, false], 0, true) := by decide +kernel

/-- T44-6 and T44-9: a collision; zero rows read no memory. -/
theorem test_draw_collision :
    (after (poke 0x300 [0xC0] { State.reset with idx := 0x300, gfx := State.reset.gfx.set 1 true }) 0xD011).map
      (fun t => (t.gfx.get 0, t.gfx.get 1, t.readV 15)) = some (true, false, 1) ∧
    (after { regs [(15, 1)] with idx := 0x1234 } 0xD010).map (fun t => (t.readV 15, t.drawFlag, t.status)) =
      some (0, true, .running) := by decide +kernel

/-- T44-20. -/
theorem test_clear : (after { regs [(15, 1)] with gfx := State.reset.gfx.set 63 true } 0x00E0).map
    (fun t => (t.gfx.get 63, t.readV 15, t.drawFlag, t.pc)) = some (false, 1, true, 0x202) := by decide +kernel

/-! ### Keypad and timers -/

/-- T45-1, T45-3, T45-6, T45-7. -/
theorem test_key_skips :
    (after (press 10 (regs [(1, 10)])) 0xE19E).map (·.pc) = some 0x204 ∧
    (after (press 11 (regs [(1, 10)])) 0xE19E).map (·.pc) = some 0x202 ∧
    (after (press 10 (regs [(1, 10)])) 0xE1A1).map (·.pc) = some 0x202 ∧
    (after (regs [(1, 10)]) 0xE1A1).map (·.pc) = some 0x204 := by decide

/-- T45-4 and T45-8. -/
theorem test_key_index_out_of_range :
    (after (regs [(1, 0x10)]) 0xE19E).map (·.status) = some (.faulted .keyIndexOutOfRange 0x10) ∧
    (after (press 10 (regs [(1, 0x1A)])) 0xE1A1).map (·.status) = some (.faulted .keyIndexOutOfRange 0x1A) := by decide

/-- T45-10: the idle step. -/
theorem test_key_wait_idles : (after (regs [(3, 0x55)]) 0xF30A).map (fun t => (t.readV 3, t.pc)) = some (0x55, 0x200) := by decide

/-- T45-11: one key down, so the choice is forced whatever the free value is. -/
theorem test_key_wait_takes_the_key : (after (press 7 (regs [(3, 0x55)])) 0xF30A).map (fun t => (t.readV 3, t.pc)) =
    some (0x07, 0x202) := by
  have only : ∀ pick, chooseKey pick 7 [] = 7 := fun pick => by simp [chooseKey, Nat.mod_one]
  have h : (after (press 7 (regs [(3, 0x55)])) 0xF30A).map (fun t => (t.readV 3, t.pc)) =
      some (keyByte (chooseKey (Config.freePick 0) 7 []), 0x202) := rfl
  rw [h, only]
  rfl

/-- T45-15, T45-17 and T45-20. -/
theorem test_timers : (after { State.reset with delayTimer := 60 } 0xF507).map (·.readV 5) = some 0x3C ∧
    (after (regs [(5, 0x3C)]) 0xF515).map (fun t => (t.delayTimer, t.soundTimer)) = some (60, 0) ∧
    (after { regs [(5, 0xFF)] with delayTimer := 3 } 0xF518).map (fun t => (t.delayTimer, t.soundTimer)) = some (3, 255) := by decide

/-! ### Host operations -/

/-- T60-2 and T60-3. -/
theorem test_tick :
    (match tick { State.reset with delayTimer := 1, soundTimer := 255 } with
      | .next t => some (t.delayTimer, t.soundTimer)
      | _ => none) = some (0, 254) ∧ tick State.reset = .next State.reset := ⟨rfl, rfl⟩

/-- T70-2. -/
theorem test_load :
    (match load [0x12, 0x00] State.reset with
      | .next t => some t.mem
      | _ => none) = some [(0x200, 0x12)] := rfl

/-- T70-6: an image of exactly 3585 bytes is rejected. -/
theorem test_load_error (bytes : List Byte) (h : bytes.length = 3585) : load bytes State.reset = .fault .loadError :=
  if_pos (by rw [h]; decide)

/-- T70-1: the font's edges. -/
theorem test_reset_memory : [0x04F, 0x050, 0x054, 0x055, 0x09B, 0x09F, 0x0A0, 0x1FF, 0x200, 0xFFF].map State.reset.mem.read =
    [0x00, 0xF0, 0xF0, 0x20, 0xF0, 0x80, 0x00, 0x00, 0x00, 0x00] := by decide

/-- R132: cell 67 is the pixel at column 3, row 1 (the cell of T44-10). -/
theorem test_pixel : (State.observe { State.reset with gfx := State.reset.gfx.set 67 true }).pixel 3 1 = true := by decide +kernel

/-! ### Witnesses: the hypotheses of every obligation that has some are met -/

/-- `next` of an outcome, for the witnesses below. -/
def nextOf (r : Result) : Option State :=
  match r with
  | .next t => some t
  | _ => none

/-- A state stopped by a fault. -/
def stopped : State := { State.reset with status := .faulted .stackUnderflow 0x20C }

/-- EncodeThenDecodeGivesTheInstruction and EncodingSpellsThePattern: the largest operands of the only checked form. -/
theorem witness_encode : (Instr.drw 15 15 15).wellFormed = true := by decide

/-- DecodeThenEncodeGivesTheWord. -/
theorem witness_decode : decodeWord 0xDFFF = some (.drw 15 15 15) := by decide

/-- StepRunsTheDecodedInstruction, at the last fetchable address. -/
theorem witness_step_runs : ∃ s : State, s.status = .running ∧ s.pc.toNat = 0xFFE ∧
    decodeWord (s.mem.read s.pc.toNat ++ s.mem.read (s.pc.toNat + 1)) = some (.ldImm 0 1) :=
  ⟨poke 0xFFE [0x60, 0x01] { State.reset with pc := 0xFFE }, by decide⟩

/-- UnrecognisedWordIsLoggedAndSkipped, at the last fetchable address. -/
theorem witness_unknown_word : ∃ s : State, s.status = .running ∧ s.pc.toNat = 0xFFE ∧
    s.mem.read s.pc.toNat ++ s.mem.read (s.pc.toNat + 1) = 0x0000#16 ∧ decodeWord 0x0000#16 = none :=
  ⟨{ State.reset with pc := 0xFFE }, by decide⟩

/-- StepFaultsExactlyWhenTheTableSays: the fetch fault at 0xFFF, the unrecognised word at 0xFFE, an instruction that raises nothing
and one that faults. AFaultingStepChangesOnlyStatus: the first and the last. -/
theorem witness_step_faults :
    ((nextOf (step { State.reset with pc := 0xFFF })).map (·.status) = some (.faulted .fetchOutOfRange 0xFFF)) ∧
    ((nextOf (step { State.reset with pc := 0xFFE })).map (·.status) = some .running) ∧
    ((after State.reset 0x6A3C).map (·.status) = some .running) ∧
    ((after State.reset 0x00EE).map (·.status) = some (.faulted .stackUnderflow 0x200)) := by decide

/-- FaultedIsLeftOnlyByInit. -/
theorem witness_faulted : stopped.status = .faulted .stackUnderflow 0x20C := rfl

/-- ARunningCoreAlwaysSteps, TickCountsBothTimersDown, SetKeyAndClearDrawFlagTouchOneThing; as a session ManyTicksFloorAtZero. -/
theorem witness_running : State.reset.status = .running ∧ Session.reset.core.status = .running := ⟨rfl, rfl⟩

/-- AWordPlacedAtPcIsTheNextInstruction, at the last fetchable address. -/
theorem witness_word_placed : ∃ s : State, s.mem.wf = true ∧ s.status = .running ∧ s.pc.toNat = 0xFFE ∧
    decodeWord 0xF065 = some (.loadRegs 0) := ⟨{ State.reset with pc := 0xFFE }, by decide⟩

/-- CallPushesItsOwnAddress: room for one more entry, and none. CallThenReturnComesBackAfterTheCall: the first. -/
theorem witness_call : ∃ s t : State, s.sp.val = 15 ∧ t.sp.val = 16 :=
  ⟨{ State.reset with sp := 15 }, { State.reset with sp := 16 }, rfl, rfl⟩

/-- ReturnPopsAndAddsTwo: a full stack, one entry, none. -/
theorem witness_return : ∃ s t u : State, s.sp.val = (15 : Fin 16).val + 1 ∧ t.sp.val = (0 : Fin 16).val + 1 ∧ u.sp.val = 0 :=
  ⟨{ State.reset with sp := 16 }, { State.reset with sp := 1 }, State.reset, rfl, rfl, rfl⟩

/-- BcdStoresThreeDigits: the last base that fits and the first that does not. -/
theorem witness_bcd : ∃ s t : State, s.mem.wf = true ∧ s.idx.toNat + 2 = 0xFFF ∧ t.mem.wf = true ∧ t.idx.toNat + 2 = 0x1000 :=
  ⟨{ State.reset with idx := 0xFFD }, { State.reset with idx := 0xFFE }, by decide⟩

/-- StoreCopiesRegistersToMemory and LoadCopiesMemoryToRegisters with `x = 15`: the last base that fits and the first that does
not. -/
theorem witness_register_range : ∃ s t : State, s.mem.wf = true ∧ s.idx.toNat + (15 : Reg).val = 0xFFF ∧
    t.mem.wf = true ∧ t.idx.toNat + (15 : Reg).val = 0x1000 :=
  ⟨{ State.reset with idx := 0xFF0 }, { State.reset with idx := 0xFF1 }, by decide⟩

/-- SelfModifiedCodeIsFetched: where its hypotheses hold of an instruction and a state, the word the next step is to fetch. -/
def nextWord (j : Instr) (s : State) : Option Word :=
  match exec j s with
  | .next t =>
    if s.mem.wf = true ∧ t.status = .running ∧ t.pc.toNat ≤ 0xFFE then
      some (byteAfter j s t.pc.toNat ++ byteAfter j s (t.pc.toNat + 1))
    else none
  | _ => none

/-- Fx55 stores both bytes of the word at the last fetchable address: 1200, a jump. -/
theorem witness_self_modified_both_bytes :
    nextWord (.storeRegs 1) { regs [(0, 0x12)] with pc := 0xFFC, idx := 0xFFE } = some 0x1200 ∧
    decodeWord 0x1200 = some (.jp 0x200) := by decide

/-- Fx55 with `x = 0` stores one byte of the pair: the low byte of 00E0, then the high byte of a word that no row accepts. -/
theorem witness_self_modified_one_byte :
    nextWord (.storeRegs 0) { regs [(0, 0xE0)] with idx := 0x203 } = some 0x00E0 ∧ decodeWord 0x00E0 = some .cls ∧
    nextWord (.storeRegs 0) { regs [(0, 0xFF)] with idx := 0x202 } = some 0xFF00 ∧ decodeWord 0xFF00 = none := by decide

/-- Fx33 on 234: the first digit becomes the low byte of a word already there, and the last digit the high byte. -/
theorem witness_self_modified_digits :
    nextWord (.ldB 1) (poke 0x202 [0x12] { regs [(1, 234)] with idx := 0x203 }) = some 0x1202 ∧
    decodeWord 0x1202 = some (.jp 0x202) ∧
    nextWord (.ldB 1) (poke 0x203 [0xAA] { regs [(1, 234)] with idx := 0x200 }) = some 0x04AA ∧
    decodeWord 0x04AA = none := by decide

/-- DrawFlipsExactlyTheCoveredCells: fifteen rows ending at 0xFFF (T44-17), and no row with `I` outside memory (T44-9). -/
theorem witness_draw : ∃ s t : State, (Instr.drw 0 1 15).wellFormed = true ∧ footprintInside (.drw 0 1 15) s ∧ s.idx = 0xFF1 ∧
    (Instr.drw 0 1 0).wellFormed = true ∧ footprintInside (.drw 0 1 0) t ∧ t.idx = 0xFFFF :=
  ⟨{ State.reset with idx := 0xFF1 }, { State.reset with idx := 0xFFFF }, rfl, .inr (by decide), rfl, rfl, .inl rfl, rfl⟩

/-- DrawFlipsExactlyTheCoveredCells, both collision clauses: row 0 of glyph 0 covers the cell 0, which is set in one screen
(T44-5) and blank in the other. -/
theorem witness_draw_covers : ∃ s : State, s.idx = 0x50 ∧ spriteCovers 0 1 1 s 0 ∧ s.gfx.get 0 = true ∧
    spriteCovers 0 1 1 { s with gfx := State.reset.gfx } 0 ∧ State.reset.gfx.get 0 = false :=
  ⟨{ State.reset with idx := 0x50, gfx := State.reset.gfx.set 0 true }, rfl,
    ⟨0, by decide, 0, by decide, by decide, by decide⟩, by decide +kernel,
    ⟨0, by decide, 0, by decide, by decide, by decide⟩, by decide +kernel⟩

/-- DrawingTwiceRestoresTheScreen: glyph 0 on a blank screen, the coordinates kept by the first draw. -/
theorem witness_draw_twice : ∃ s t : State, (Instr.drw 0 1 5).wellFormed = true ∧ footprintInside (.drw 0 1 5) s ∧
    exec (.drw 0 1 5) s = .next t ∧ (t.readV 0).toNat % 64 = (s.readV 0).toNat % 64 ∧
    (t.readV 1).toNat % 32 = (s.readV 1).toNat % 32 ∧ (∀ c : Fin 2048, s.gfx.get c = false) ∧
    ∃ r < 5, s.mem.read (s.idx.toNat + r) ≠ 0 :=
  ⟨{ State.reset with idx := 0x50 }, _, rfl, .inr (by decide), rfl, rfl, rfl,
    fun c => by simp [State.reset, Vector.get_eq_getElem], 0, by decide, by decide⟩

/-- KeySkipsTestTheLevel: the largest key index and the smallest value that is none. -/
theorem witness_key_skips : ((regs [(1, 15)]).readV 1).toNat = (15 : Key).val ∧ ((regs [(1, 16)]).readV 1).toNat > 15 := by decide

/-- KeyWaitIdlesUntilAKeyIsDown: no key, and a key. -/
theorem witness_key_wait : (∀ k : Key, State.reset.keypad.get k = false) ∧ ∃ k : Key, (press 15 State.reset).keypad.get k = true := by
  decide

/-- PcFollowsTheTable: both clauses. -/
theorem witness_pc : faultOf .cls State.reset = none ∧ faultOf .ret State.reset = some (.stackUnderflow, 0x200) := by decide

/-- OnlyDestinationAndFlagRegistersChange: a register beside the destinations of a flag writer. -/
theorem witness_register_frame : (nextOf (exec (.addReg 1 2) State.reset)).isSome = true ∧ mayWrite (.addReg 1 2) 2 = false := by decide

/-- OnlyStoredBytesChange: the byte below and the byte above a store of sixteen registers. -/
theorem witness_memory_frame : ∃ s : State, s.mem.wf = true ∧ (nextOf (exec (.storeRegs 15) s)).isSome = true ∧
    storesTo (.storeRegs 15) s 0x2FF = false ∧ storesTo (.storeRegs 15) s 0x310 = false :=
  ⟨{ State.reset with idx := 0x300 }, by decide⟩

/-- IndexAndStackChangeOnlyByTheirInstructions, DiagnosticLogOnlyGrows and the step clauses of the whole-machine rules: a step
answers a next state. -/
theorem witness_step : (nextOf (step State.reset)).isSome = true ∧ (nextOf (exec (.ldImm 0 1) State.reset)).isSome = true := by decide

/-- StepNeverTicksAndNeverClearsTheDrawFlag: steps that change a timer, and a step with the draw flag set. -/
theorem witness_timers : (after (regs [(5, 60)]) 0xF515).map (·.delayTimer) = some 60 ∧
    (after (regs [(5, 60)]) 0xF518).map (·.soundTimer) = some 60 ∧
    (after { State.reset with drawFlag := true } 0x6A3C).map (·.drawFlag) = some true := by decide

/-- DrawFlagIsSetOnlyByDrawingAndClearedOnlyByTheHost and FramebufferIsMutatedOnlyByClearAndDraw: each operation completes, and a
00E0 that changes the framebuffer. -/
theorem witness_host_operations : (after State.reset 0x00E0).map (fun t => (t.status, t.drawFlag)) = some (.running, true) ∧
    (nextOf (tick State.reset)).isSome = true ∧ (nextOf (setKey 15 true State.reset)).isSome = true ∧
    (nextOf (load [0x12, 0x00] State.reset)).isSome = true ∧ (nextOf (clearDrawFlag State.reset)).isSome = true := by decide

theorem witness_framebuffer_changes :
    (after { State.reset with gfx := State.reset.gfx.set 0 true } 0x00E0).map (fun t => t.gfx.get 0) = some false := by
  decide +kernel

/-- UnreadStateNeverFlowsIntoARun, the clauses of one part: two states that differ in that part alone. -/
theorem witness_unread_one_part : ∃ s d u l : State,
    s.withoutDrawFlag = d.withoutDrawFlag ∧ s ≠ d ∧ s.withoutSoundTimer = u.withoutSoundTimer ∧ s ≠ u ∧
    s.withoutDiagLog = l.withoutDiagLog ∧ s ≠ l :=
  ⟨State.reset, { State.reset with drawFlag := true }, { State.reset with soundTimer := 9 },
    { State.reset with diagLog := [.unknownOpcode 0 0x200] },
    rfl, ne_of_apply_ne (·.drawFlag) (by decide), rfl, ne_of_apply_ne (·.soundTimer) (by decide),
    rfl, ne_of_apply_ne (·.diagLog) (by decide)⟩

/-- UnreadStateNeverFlowsIntoARun: two states that differ in all three parts. -/
theorem witness_unread : ∃ s₁ s₂ : State, s₁.withoutUnread = s₂.withoutUnread ∧ s₁.drawFlag ≠ s₂.drawFlag ∧
    s₁.soundTimer ≠ s₂.soundTimer ∧ s₁.diagLog ≠ s₂.diagLog :=
  ⟨State.reset, { State.reset with drawFlag := true, soundTimer := 9, diagLog := [.unknownOpcode 0 0x200] }, rfl, by decide⟩

/-- StaleStackEntriesNeverFlowIntoARun: two states that differ in the first entry that is not live. -/
theorem witness_stale : ∃ s₁ s₂ : State, s₁.withoutStale = s₂.withoutStale ∧ s₁.stack ≠ s₂.stack :=
  ⟨{ State.reset with sp := 1 }, { State.reset with sp := 1, stack := State.reset.stack.set 1 0x204 }, by rfl, by decide⟩

/-- AQuiescentLoopNeverMoves: the self-jump at 0x200 (T41-2) and at the last fetchable address. -/
theorem witness_quiescent : (poke 0x200 [0x12, 0x00] State.reset).quiescent ∧
    (poke 0xFFE [0x1F, 0xFE] { State.reset with pc := 0xFFE }).quiescent := by
  refine ⟨⟨?_, ?_, ?_, ?_⟩, ⟨?_, ?_, ?_, ?_⟩⟩ <;> decide

/-- EveryStepKeepsTheInvariant and EveryOperationSequenceKeepsTheInvariant: a state in the middle of a subroutine, its call made
from the last fetchable address, `pc` at the bound. -/
theorem witness_invariant : ∃ s : State, s.Inv ∧ s.pc.toNat = 0x10FE ∧ (nextOf (step s)).isSome = true ∧
    ∃ τ, Session.run [.tick, .step, .step] { core := s, phase := .loading } = .next τ := by
  let s : State := { State.reset with pc := 0x10FE, sp := 1, stack := State.reset.stack.set 0 0xFFE }
  refine ⟨s, ⟨rfl, by decide, ?_⟩, rfl, by decide, _, rfl⟩
  intro j hj
  have h0 : j = 0 := Fin.ext (Nat.lt_one_iff.1 hj)
  subst h0
  decide

/-- CanonicalMemoriesAreEqualWhenTheyReadEqual: two ways to the same contents. -/
theorem witness_canonical : ∃ m₁ m₂ : Memory, m₁.wf = true ∧ m₂.wf = true ∧ m₁ ≠ [] ∧ ∀ a, m₁.read a = m₂.read a :=
  ⟨Memory.write [] 0x300 1, Memory.write (Memory.write [] 0x300 2) 0x300 1, by decide, by decide, by decide, fun _ => rfl⟩

/-- LoadCopiesTheImageOrReportsLoadError: the longest image that fits and the shortest that does not. -/
theorem witness_load : State.reset.mem.wf = true ∧ State.reset.status = .running ∧
    (List.replicate 3584 (0xAA : Byte)).length = 3584 ∧ (List.replicate 3585 (0xAA : Byte)).length > 3584 :=
  ⟨rfl, rfl, List.length_replicate, by rw [List.length_replicate]; decide⟩

/-- TheLoadWindowClosesAtTheFirstStep, the first two clauses: a session that steps, and one that loads too much. -/
theorem witness_load_window : (∃ τ, Session.reset.apply .step = .next τ) ∧ Session.reset.core.status = .running ∧
    Session.reset.phase ≠ .stepping ∧ (List.replicate 3585 (0xAA : Byte)).length > 3584 :=
  ⟨⟨_, rfl⟩, rfl, by decide, by rw [List.length_replicate]; decide⟩

/-- TheLoadWindowClosesAtTheFirstStep, the other clauses: in either phase an operation that is not `Init` completes, and so does a
run of three. -/
theorem witness_load_window_stays_closed : Operation.tick ≠ .init ∧
    Operation.init ∉ [Operation.tick, .setKey 15 true, .clearDrawFlag] ∧ ∀ p ∈ [Phase.stepping, Phase.loadFailed],
      (∃ τ, ({ core := State.reset, phase := p } : Session).apply .tick = .next τ) ∧
      ∃ τ, Session.run [.tick, .setKey 15 true, .clearDrawFlag] { core := State.reset, phase := p } = .next τ := by
  refine ⟨by decide, by decide, fun p hp => ?_⟩
  rcases List.mem_pair.1 hp with rfl | rfl <;> exact ⟨⟨_, rfl⟩, _, rfl⟩

/-- NothingButInitBeforeInit. -/
theorem witness_before_init : ∃ σ : Session, σ.core.status = .notStarted ∧ σ.phase = .loading ∧ Operation.step ≠ .init :=
  ⟨{ core := { State.reset with status := .notStarted }, phase := .loading }, rfl, rfl, by decide⟩

end Sys2Proof.Tests
end

section
/-!
PROOFS. The draw flag (10_state.md R22). The key fact is a commuting square: an instruction that does not draw carries whatever flag
it finds to the state after it. So it neither reads nor writes the flag, and both halves of the rule follow from the one lemma.
-/

/-- The two instructions that mutate the framebuffer, 00E0 and Dxyn. -/
def Sys2Proof.Instr.draws : Instr → Bool
  | .cls | .drw _ _ _ => true
  | _ => false

namespace Sys2Proof.Machine

/-! ### Replacing the draw flag -/

/-- The state with another draw flag. -/
def State.withDrawFlag (s : State) (b : Bool) : State := { s with drawFlag := b }

@[simp] theorem State.withDrawFlag_drawFlag (s : State) (b : Bool) : (s.withDrawFlag b).drawFlag = b := rfl

@[simp] theorem State.withDrawFlag_self (s : State) : s.withDrawFlag s.drawFlag = s := rfl

@[simp] theorem State.withDrawFlag_pressedKeys (s : State) (b : Bool) :
    (s.withDrawFlag b).pressedKeys = s.pressedKeys := rfl

theorem Result.map_map (f g : State → State) (r : Result) : Result.map g (Result.map f r) = Result.map (g ∘ f) r := by
  cases r <;> rfl

/-- The footprint guard carries the flag along when the guarded action does: `raise` always does. -/
theorem guardFootprint_withDrawFlag {n : Nat} {s : State} {b : Bool} {act act' : Result}
    (h : act' = Result.map (·.withDrawFlag b) act) :
    guardFootprint n (s.withDrawFlag b) act' = Result.map (·.withDrawFlag b) (guardFootprint n s act) := by
  rw [guardFootprint, guardFootprint, apply_ite (Result.map _), h]
  rfl

/-- The two key skips carry the flag along, whether they skip on a key that is down (`test := id`) or up. -/
theorem withKey_skipIf_withDrawFlag (x : Reg) (s : State) (b : Bool) (test : Bool → Bool) :
    withKey x (s.withDrawFlag b) (fun pressed => .next ((s.withDrawFlag b).skipIf (test pressed))) =
      Result.map (·.withDrawFlag b) (withKey x s fun pressed => .next (s.skipIf (test pressed))) := by
  rw [withKey, withKey, apply_dite (Result.map _)]
  rfl

/-! ### Instructions that do not draw -/

theorem execRet_withDrawFlag (s : State) (b : Bool) :
    execRet (s.withDrawFlag b) = Result.map (·.withDrawFlag b) (execRet s) := by
  rw [execRet, execRet, apply_dite (Result.map _)]
  rfl

theorem execCall_withDrawFlag (nnn : Addr12) (s : State) (b : Bool) :
    execCall nnn (s.withDrawFlag b) = Result.map (·.withDrawFlag b) (execCall nnn s) := by
  rw [execCall, execCall, apply_dite (Result.map _)]
  rfl

theorem execLdVxK_withDrawFlag (x : Reg) (s : State) (b : Bool) :
    execLdVxK x (s.withDrawFlag b) = Result.map (·.withDrawFlag b) (execLdVxK x s) := by
  unfold execLdVxK
  rw [State.withDrawFlag_pressedKeys]
  cases s.pressedKeys <;> rfl

/-- An instruction that does not draw carries the flag it finds to the state after it. -/
theorem exec_withDrawFlag {i : Instr} (hi : i.draws = false) (s : State) (b : Bool) :
    exec i (s.withDrawFlag b) = Result.map (·.withDrawFlag b) (exec i s) := by
  cases i with
  | cls | drw => cases hi
  | ret => exact execRet_withDrawFlag s b
  | call nnn => exact execCall_withDrawFlag nnn s b
  | skp x => exact withKey_skipIf_withDrawFlag x s b id
  | sknp x => exact withKey_skipIf_withDrawFlag x s b not
  | ldVxK x => exact execLdVxK_withDrawFlag x s b
  | ldB | storeRegs | loadRegs => exact guardFootprint_withDrawFlag rfl
  | _ => rfl

/-- The case of `exec_withDrawFlag` in which the flag is put back as it was. -/
theorem exec_drawFlag_of_not_draws {i : Instr} {s t : State} (hi : i.draws = false) (h : exec i s = .next t) :
    t.drawFlag = s.drawFlag := by
  have hmap := exec_withDrawFlag hi s s.drawFlag
  rw [State.withDrawFlag_self, h] at hmap
  have ht : t = t.withDrawFlag s.drawFlag := Host.Outcome.next.inj hmap
  rw [ht, State.withDrawFlag_drawFlag]

/-! ### Instructions that draw -/

/-- A Dxyn that completes sets the flag, and one that raises leaves it. -/
theorem execDrw_drawFlag {x y : Reg} {n : Nat} {s t : State} (hs : s.status = .running) (h : execDrw x y n s = .next t) :
    t.drawFlag = if t.status = .running then true else s.drawFlag := by
  unfold execDrw at h
  obtain ⟨-, hg⟩ | ⟨-, -, hg⟩ := guardFootprint_cases n s _
  · cases hg.symm.trans h
    simp [hs]
  · cases hg.symm.trans h
    simp

/-- What a Dxyn makes of a state does not depend on the flag it finds, but for the flag itself. -/
theorem execDrw_withoutDrawFlag (x y : Reg) (n : Nat) (s : State) (b : Bool) :
    Result.map State.withoutDrawFlag (execDrw x y n (s.withDrawFlag b)) =
      Result.map State.withoutDrawFlag (execDrw x y n s) := by
  rw [execDrw, execDrw, guardFootprint, guardFootprint, apply_ite (Result.map _), apply_ite (Result.map _)]
  rfl

/-! ### Every instruction and every step -/

theorem exec_withoutDrawFlag (i : Instr) (s : State) (b : Bool) :
    Result.map State.withoutDrawFlag (exec i (s.withDrawFlag b)) = Result.map State.withoutDrawFlag (exec i s) := by
  cases hi : i.draws with
  | false => rw [exec_withDrawFlag hi, Result.map_map]; rfl
  | true =>
    cases i with
    | cls => rfl
    | drw x y n => exact execDrw_withoutDrawFlag x y n s b
    | _ => cases hi

theorem step_drawFlag {s t : State} (h : step s = .next t) :
    t.drawFlag = if t.status = .running then
      (match decodeWord s.fetchWord with
        | some .cls | some (.drw _ _ _) => true
        | _ => s.drawFlag)
      else s.drawFlag := by
  obtain ⟨c, k, hs, rfl⟩ | ⟨-, -, rfl⟩ | ⟨-, -, hd, rfl⟩ | ⟨hs, -, i, hd, hexec⟩ := step_cases h
  · simp [hs]
  · simp
  · simp [hd]
  · rw [hd]
    cases i with
    | cls => cases hexec; simp [hs]
    | drw x y n => exact execDrw_drawFlag hs hexec
    | _ => exact (exec_drawFlag_of_not_draws rfl hexec).trans (ite_self _).symm

/-! ### The host operations -/

theorem tick_drawFlag {s t : State} (h : tick s = .next t) : t.drawFlag = s.drawFlag := by
  obtain ⟨-, ht⟩ := whileRunning_next h
  cases ht
  rfl

theorem setKey_drawFlag {k : Nat} {b : Bool} {s t : State} (h : setKey k b s = .next t) : t.drawFlag = s.drawFlag := by
  obtain ⟨-, ht⟩ := whileRunning_next h
  split at ht <;> cases ht
  rfl

theorem load_drawFlag {bytes : List Byte} {s t : State} (h : load bytes s = .next t) : t.drawFlag = s.drawFlag := by
  obtain ⟨-, ht⟩ := whileRunning_next h
  split at ht <;> cases ht
  rfl

theorem clearDrawFlag_drawFlag {s t : State} (h : clearDrawFlag s = .next t) : t.drawFlag = false := by
  obtain ⟨-, ht⟩ := whileRunning_next h
  cases ht
  rfl

/-- Settles O43: by cases on what a `Step` can do, on each host operation, and by the commuting square `exec_withDrawFlag`. -/
theorem drawFlagIsSetOnlyByDrawingAndClearedOnlyByTheHost :
    Obligations.DrawFlagIsSetOnlyByDrawingAndClearedOnlyByTheHost :=
  ⟨fun _ _ => step_drawFlag, fun _ _ => tick_drawFlag, fun _ _ _ _ => setKey_drawFlag, fun _ _ _ => load_drawFlag,
    init_drawFlag, fun _ _ => clearDrawFlag_drawFlag, exec_withoutDrawFlag⟩

end Sys2Proof.Machine
end

section
/-!
PROOFS. The opcode map and the decoder agree (30_encoding.md R48). The key fact is that a row accepts a word exactly when it is the row
of the instruction the decoder gives: one direction by what the decoder compares, the other by what a row's mask keeps. So no two rows
accept the same word, and the filtered table is at most the one decoded row.
-/

namespace Sys2Proof

open Laws.RowOfWord (accepts_of_family accepts_of_nibbles accepts_of_byte)

section
variable {op p k : Word} {m : String} {i : Instr} {r : OpcodeRow}

/-! ### The row of the decoded instruction accepts the word -/

/-- The rule for one comparison of a secondary decoder, which gives `j` where the comparison holds and goes on with `rest` otherwise. -/
theorem accepts_of_ite {c : Prop} [Decidable c] {j : Instr} {rest : Option Instr} (hj : c → j.row.accepts op = true)
    (hrest : rest = some i → i.row.accepts op = true) (h : (if c then some j else rest) = some i) :
    i.row.accepts op = true := by
  split_ifs at h with hc
  · cases h; exact hj hc
  · exact hrest h

theorem accepts_of_decodeFamily0 : decodeFamily0 op = some i → i.row.accepts op = true := by
  iterate 2 refine accepts_of_ite (accepts_word_iff _ _ op).2 ?_
  nofun

theorem accepts_of_decodeLowNibble0 {j : Reg → Reg → Instr} (h : decodeLowNibble0 op j = some i)
    (hj : nField op = 0x0#4 → (j (xField op) (yField op)).row.accepts op = true) : i.row.accepts op = true :=
  accepts_of_ite (rest := none) hj nofun h

theorem accepts_of_decodeFamily8 (hf : familyField op = 0x8#4) :
    decodeFamily8 op = some i → i.row.accepts op = true := by
  iterate 9 refine accepts_of_ite (accepts_of_nibbles 0x8#4 _ hf) ?_
  nofun

theorem accepts_of_decodeFamilyE (hf : familyField op = 0xE#4) :
    decodeFamilyE op = some i → i.row.accepts op = true := by
  iterate 2 refine accepts_of_ite (accepts_of_byte 0xE#4 _ hf) ?_
  nofun

theorem accepts_of_decodeFamilyF (hf : familyField op = 0xF#4) :
    decodeFamilyF op = some i → i.row.accepts op = true := by
  iterate 9 refine accepts_of_ite (accepts_of_byte 0xF#4 _ hf) ?_
  nofun

theorem accepts_of_decodeWord (h : decodeWord op = some i) : i.row.accepts op = true := by
  obtain hf | hf | hf | hf | hf | hf | hf | hf | hf | hf | hf | hf | hf | hf | hf | hf := nibble_cases (familyField op)
  · exact accepts_of_decodeFamily0 ((decodeWord_family0 hf).symm.trans h)
  · cases (decodeWord_family1 hf).symm.trans h; exact accepts_of_family 0x1#4 hf
  · cases (decodeWord_family2 hf).symm.trans h; exact accepts_of_family 0x2#4 hf
  · cases (decodeWord_family3 hf).symm.trans h; exact accepts_of_family 0x3#4 hf
  · cases (decodeWord_family4 hf).symm.trans h; exact accepts_of_family 0x4#4 hf
  · exact accepts_of_decodeLowNibble0 ((decodeWord_family5 hf).symm.trans h) (accepts_of_nibbles 0x5#4 0x0#4 hf)
  · cases (decodeWord_family6 hf).symm.trans h; exact accepts_of_family 0x6#4 hf
  · cases (decodeWord_family7 hf).symm.trans h; exact accepts_of_family 0x7#4 hf
  · exact accepts_of_decodeFamily8 hf ((decodeWord_family8 hf).symm.trans h)
  · exact accepts_of_decodeLowNibble0 ((decodeWord_family9 hf).symm.trans h) (accepts_of_nibbles 0x9#4 0x0#4 hf)
  · cases (decodeWord_familyA hf).symm.trans h; exact accepts_of_family 0xA#4 hf
  · cases (decodeWord_familyB hf).symm.trans h; exact accepts_of_family 0xB#4 hf
  · cases (decodeWord_familyC hf).symm.trans h; exact accepts_of_family 0xC#4 hf
  · cases (decodeWord_familyD hf).symm.trans h; exact accepts_of_family 0xD#4 hf
  · exact accepts_of_decodeFamilyE hf ((decodeWord_familyE hf).symm.trans h)
  · exact accepts_of_decodeFamilyF hf ((decodeWord_familyF hf).symm.trans h)

/-! ### An accepted word has the fixed digits of the row's pattern -/

theorem and_mask_of_accepts (h : (OpcodeRow.mk m p k).accepts op = true) : op &&& k = p := beq_iff_eq.1 h

theorem family_of_accepts (h : (OpcodeRow.mk m p 0xF000#16).accepts op = true) : familyField op = familyField p := by
  rw [← and_mask_of_accepts h, mask_F000, familyField_encA]

theorem nibbles_of_accepts (h : (OpcodeRow.mk m p 0xF00F#16).accepts op = true) :
    familyField op = familyField p ∧ nField op = nField p := by
  rw [← and_mask_of_accepts h, mask_F00F, familyField_encXYN, nField_encXYN]
  exact ⟨rfl, rfl⟩

theorem byte_of_accepts (h : (OpcodeRow.mk m p 0xF0FF#16).accepts op = true) :
    familyField op = familyField p ∧ kkField op = kkField p := by
  rw [← and_mask_of_accepts h, mask_F0FF, familyField_encXK, kkField_encXK]
  exact ⟨rfl, rfl⟩

/-! ### A row that accepts the word is the row of the decoded instruction -/

/-- The cases are grouped by what the decoder compares; in each, the decoder runs on the fixed digits of the pattern. -/
theorem decodeWord_row_of_accepts (h : i.row.accepts op = true) : (decodeWord op).map Instr.row = some i.row := by
  cases i with
  | cls | ret =>
    cases (accepts_word_iff _ _ op).1 h
    rfl
  | jp | call | seImm | sneImm | ldImm | addImm | ldI | jpV0 | rnd | drw =>
    rw [decodeWord, family_of_accepts h]
    rfl
  | seReg =>
    obtain ⟨hf, hn⟩ := nibbles_of_accepts h
    rw [decodeWord_family5 hf, decodeLowNibble0, hn]
    rfl
  | sneReg =>
    obtain ⟨hf, hn⟩ := nibbles_of_accepts h
    rw [decodeWord_family9 hf, decodeLowNibble0, hn]
    rfl
  | ldReg | orReg | andReg | xorReg | addReg | subReg | shr | subnReg | shl =>
    obtain ⟨hf, hn⟩ := nibbles_of_accepts h
    rw [decodeWord_family8 hf, decodeFamily8, hn]
    rfl
  | skp | sknp =>
    obtain ⟨hf, hk⟩ := byte_of_accepts h
    rw [decodeWord_familyE hf, decodeFamilyE, hk]
    rfl
  | ldVxDT | ldVxK | ldDTVx | ldSTVx | addI | ldF | ldB | storeRegs | loadRegs =>
    obtain ⟨hf, hk⟩ := byte_of_accepts h
    rw [decodeWord_familyF hf, decodeFamilyF, hk]
    rfl

/-! ### The table -/

theorem row_mem_opcodeTable (i : Instr) : i.row ∈ opcodeTable := by
  cases i <;> simp only [Instr.row] <;> decide

theorem nodup_opcodeTable : opcodeTable.Nodup := by decide

/-- A row of the table accepts a word exactly when it is the row of the instruction the decoder gives. -/
theorem accepts_iff_decodeWord_row (hr : r ∈ opcodeTable) :
    r.accepts op = true ↔ (decodeWord op).map Instr.row = some r := by
  constructor
  · obtain ⟨i, -, rfl⟩ := List.mem_map.1 hr
    exact decodeWord_row_of_accepts
  · intro h
    obtain ⟨i, hi, rfl⟩ := Option.map_eq_some_iff.1 h
    exact accepts_of_decodeWord hi

end

/-- Settles O3: by `accepts_iff_decodeWord_row`, and because every instruction's row stands in the table exactly once. -/
theorem exactlyOneTableRowAcceptsADecodedWord : Obligations.ExactlyOneTableRowAcceptsADecodedWord := by
  intro op
  cases hd : decodeWord op with
  | none =>
    refine List.filter_eq_nil_iff.2 fun r hr h => ?_
    rw [accepts_iff_decodeWord_row hr, hd] at h
    cases h
  | some i =>
    have hrow : ∀ r ∈ opcodeTable, r.accepts op = (r == i.row) := fun r hr => by
      rw [Bool.eq_iff_iff, accepts_iff_decodeWord_row hr, hd, beq_iff_eq]
      exact Option.some_inj.trans eq_comm
    calc opcodeTable.filter (fun r => r.accepts op)
      _ = opcodeTable.filter (· == i.row) := List.filter_congr hrow
      _ = List.replicate (opcodeTable.count i.row) i.row := List.filter_beq i.row
      _ = [i.row] := by rw [List.count_eq_one_of_mem nodup_opcodeTable (row_mem_opcodeTable i)]; rfl

end Sys2Proof
end

section
/-!
PROOFS. The timers (40_step_cycle.md R69, 10_state.md R20). The key fact is an equation: the timers after an instruction that answers
a next state, as a function of the instruction and the state. A fault is such an answer too, and only instructions that write no timer
can raise one. The draw flag's half of the rule follows from R22, `step_drawFlag`.
-/

namespace Sys2Proof.Machine

/-- The delay and the sound timer, in this order. -/
def State.timers (s : State) : Byte × Byte := (s.delayTimer, s.soundTimer)

/-- The timers an instruction leaves behind: Fx15 writes the delay timer, Fx18 the sound timer, no other writes either. -/
def timersAfter (i : Instr) (s : State) : Byte × Byte :=
  match i with
  | .ldDTVx x => (s.readV x, s.soundTimer)
  | .ldSTVx x => (s.delayTimer, s.readV x)
  | _ => s.timers

section
variable {s t : State}

/-! ### The guarded operations leave the timers -/

theorem guardFootprint_timers {n : Nat} {u : State} (h : guardFootprint n s (.next u) = .next t)
    (hu : u.timers = s.timers) : t.timers = s.timers := by
  obtain ⟨-, hg⟩ | ⟨-, -, hg⟩ := guardFootprint_cases n s (.next u)
  · cases hg.symm.trans h
    exact hu
  · cases hg.symm.trans h
    rfl

/-- Both key skips, whether they skip on a key that is down (`test := id`) or up. -/
theorem withKey_skipIf_timers {x : Reg} (test : Bool → Bool)
    (h : withKey x s (fun pressed => .next (s.skipIf (test pressed))) = .next t) : t.timers = s.timers := by
  obtain ⟨_, -, hk⟩ | ⟨-, hk⟩ := withKey_cases x s fun pressed => .next (s.skipIf (test pressed))
  · cases hk.symm.trans h
    rfl
  · cases hk.symm.trans h
    rfl

theorem execRet_timers (h : execRet s = .next t) : t.timers = s.timers := by
  unfold execRet at h
  split at h <;> cases h <;> rfl

theorem execCall_timers {nnn : Addr12} (h : execCall nnn s = .next t) : t.timers = s.timers := by
  unfold execCall at h
  split at h <;> cases h <;> rfl

theorem execLdVxK_timers {x : Reg} (h : execLdVxK x s = .next t) : t.timers = s.timers := by
  unfold execLdVxK at h
  split at h <;> cases h <;> rfl

/-! ### Every instruction and every step -/

theorem exec_timers {i : Instr} (h : exec i s = .next t) : t.timers = timersAfter i s := by
  cases i with
  | ret => exact execRet_timers h
  | call => exact execCall_timers h
  | skp => exact withKey_skipIf_timers id h
  | sknp => exact withKey_skipIf_timers not h
  | ldVxK => exact execLdVxK_timers h
  | drw | ldB | storeRegs | loadRegs => exact guardFootprint_timers h rfl
  | _ => cases h; rfl

/-- A `Step` leaves both timers, or is one instruction and leaves the timers that instruction gives. -/
theorem step_timers (h : step s = .next t) :
    t.timers = s.timers ∨ ∃ i, decodeWord s.fetchWord = some i ∧ t.timers = timersAfter i s := by
  obtain ⟨_, _, -, rfl⟩ | ⟨-, -, rfl⟩ | ⟨-, -, -, rfl⟩ | ⟨-, -, i, hd, hexec⟩ := step_cases h
  · exact .inl rfl
  · exact .inl rfl
  · exact .inl rfl
  · exact .inr ⟨i, hd, exec_timers hexec⟩

theorem timersAfter_delay_ne {i : Instr} (h : (timersAfter i s).1 ≠ s.delayTimer) : ∃ x, i = .ldDTVx x := by
  cases i with
  | ldDTVx x => exact ⟨x, rfl⟩
  | _ => exact absurd rfl h

theorem timersAfter_sound_ne {i : Instr} (h : (timersAfter i s).2 ≠ s.soundTimer) : ∃ x, i = .ldSTVx x := by
  cases i with
  | ldSTVx x => exact ⟨x, rfl⟩
  | _ => exact absurd rfl h

theorem step_delayTimer_ne (h : step s = .next t) (hne : t.delayTimer ≠ s.delayTimer) :
    ∃ x, decodeWord s.fetchWord = some (.ldDTVx x) := by
  obtain ht | ⟨i, hd, ht⟩ := step_timers h
  · exact absurd (congrArg Prod.fst ht) hne
  · obtain ⟨x, rfl⟩ := timersAfter_delay_ne fun e => hne ((congrArg Prod.fst ht).trans e)
    exact ⟨x, hd⟩

theorem step_soundTimer_ne (h : step s = .next t) (hne : t.soundTimer ≠ s.soundTimer) :
    ∃ x, decodeWord s.fetchWord = some (.ldSTVx x) := by
  obtain ht | ⟨i, hd, ht⟩ := step_timers h
  · exact absurd (congrArg Prod.snd ht) hne
  · obtain ⟨x, rfl⟩ := timersAfter_sound_ne fun e => hne ((congrArg Prod.snd ht).trans e)
    exact ⟨x, hd⟩

/-- Every case of `step_drawFlag` sets the flag or leaves it. -/
theorem step_drawFlag_of_set (h : step s = .next t) (hs : s.drawFlag = true) : t.drawFlag = true := by
  rw [step_drawFlag h, hs, ite_eq_right_iff]
  intro _
  split <;> rfl

end

/-- Settles O42: by the equation for the timers after an instruction, and for the draw flag by the rule of R22. -/
theorem stepNeverTicksAndNeverClearsTheDrawFlag : Obligations.StepNeverTicksAndNeverClearsTheDrawFlag :=
  fun _ _ h => ⟨step_delayTimer_ne h, step_soundTimer_ne h, step_drawFlag_of_set h⟩

end Sys2Proof.Machine
end

section
/-!
PROOFS. Jumps and skips (41_control_flow.md R71, R74-R78). Each statement asks two things of an instruction. Its word decodes to it:
`decodeWord_patternValue`, once for all instructions, because the pattern's number is the encoded word and the decoder undoes the
encoding. And it moves `pc` only: `setPc_movesPcOnly`, whose only content is the new `pc` as a number.
-/

namespace Sys2Proof

/-! ### The word a pattern spells decodes to its instruction -/

/-- The row count of a well-formed Dxyn fits its digit. -/
theorem rowDigit_toNat {x y : Reg} {n : Nat} (h : (Instr.drw x y n).wellFormed = true) : (BitVec.ofNat 4 n).toNat = n :=
  Nat.mod_eq_of_lt (Nat.lt_succ_of_le (of_decide_eq_true h))

/-- The fields of an encoded word are the operands, so the decoder finds them again, whichever digits it compares. -/
theorem decodeWord_encode {i : Instr} (h : i.wellFormed = true) : decodeWord (encode i) = some i := by
  cases i with
  | cls | ret => rfl
  | jp | call | ldI | jpV0 | seImm | sneImm | ldImm | addImm | rnd => simp [encode, decodeWord]
  | seReg | sneReg => simp [encode, decodeWord, decodeLowNibble0]
  | ldReg | orReg | andReg | xorReg | addReg | subReg | shr | subnReg | shl => simp [encode, decodeWord, decodeFamily8]
  | drw => simp [encode, decodeWord, -BitVec.toNat_ofNat, rowDigit_toNat h]
  | skp | sknp => simp [encode, decodeWord, decodeFamilyE]
  | ldVxDT | ldVxK | ldDTVx | ldSTVx | addI | ldF | ldB | storeRegs | loadRegs =>
    simp [encode, decodeWord, decodeFamilyF]

theorem encode_toNat {i : Instr} (h : i.wellFormed = true) : (encode i).toNat = Machine.patternValue i := by
  cases i with
  | cls | ret => rfl
  | jp | call | ldI | jpV0 => exact encA_toNat _ _
  | seImm | sneImm | ldImm | addImm | rnd => exact (encXK_toNat _ _ _).trans (Nat.add_assoc _ _ _).symm
  | seReg | sneReg | ldReg | orReg | andReg | xorReg | addReg | subReg | shr | subnReg | shl =>
    refine (encXYN_toNat _ _ _ _).trans ?_
    simp only [Machine.patternValue, BitVec.toNat_ofNat]
    omega
  | drw =>
    refine (encXYN_toNat _ _ _ _).trans ?_
    simp only [Machine.patternValue, rowDigit_toNat h, BitVec.reduceToNat]
    omega
  | skp | sknp | ldVxDT | ldVxK | ldDTVx | ldSTVx | addI | ldF | ldB | storeRegs | loadRegs =>
    refine (encXK_toNat _ _ _).trans ?_
    simp only [Machine.patternValue, BitVec.toNat_ofNat]
    omega

/-- The word of the number an instruction's pattern spells (30_encoding.md R50) decodes to the instruction. -/
theorem decodeWord_patternValue {i : Instr} (h : i.wellFormed = true) :
    decodeWord (BitVec.ofNat 16 (Machine.patternValue i)) = some i := by
  rw [← encode_toNat h, BitVec.ofNat_toNat, BitVec.setWidth_eq]
  exact decodeWord_encode h

end Sys2Proof

namespace Sys2Proof.Machine

section
variable (s : State)

/-! ### Instructions that move `pc` only -/

theorem setPc_movesPcOnly {w : Word} {target : Nat} (h : w.toNat = target) : MovesPcOnly (.next (s.setPc w)) s target :=
  ⟨_, rfl, rfl, h⟩

theorem addrOperand_toNat (nnn : Addr12) : (addrOperand nnn).toNat = nnn.toNat :=
  BitVec.toNat_setWidth_of_le (by decide)

/-- Twelve bits plus eight do not overflow the sixteen of `pc`. -/
theorem addrOperand_add_readV16_toNat (nnn : Addr12) (r : Reg) :
    (addrOperand nnn + s.readV16 r).toNat = nnn.toNat + (s.readV r).toNat := by
  have hv : (s.readV16 r).toNat = (s.readV r).toNat := BitVec.toNat_setWidth_of_le (by decide)
  rw [BitVec.toNat_add, addrOperand_toNat, hv]
  omega

/-- The skips differ only in the test `c` they compute for their condition `p`. -/
theorem skipIf_movesPcOnly {c : Bool} {p : Prop} [Decidable p] (h : c = true ↔ p) :
    MovesPcOnly (.next (s.skipIf c)) s (if p then (s.pc.toNat + 4) % 65536 else (s.pc.toNat + 2) % 65536) := by
  refine setPc_movesPcOnly s ?_
  rw [apply_ite BitVec.toNat]
  exact if_congr h (BitVec.toNat_add _ _) (BitVec.toNat_add _ _)

end

/-- Settles O14: both instructions set `pc`, and the sum of Bnnn fits its sixteen bits. -/
theorem jumpsGoToTheirTargets : Obligations.JumpsGoToTheirTargets := fun nnn s =>
  ⟨decodeWord_patternValue (i := .jp nnn) rfl, setPc_movesPcOnly s (addrOperand_toNat nnn),
    decodeWord_patternValue (i := .jpV0 nnn) rfl, setPc_movesPcOnly s (addrOperand_add_readV16_toNat s nnn 0)⟩

/-- Settles O18: by the rule for skips, the test being the equality of a register with the immediate or its negation. -/
theorem immediateSkipsCompareAndSkip : Obligations.ImmediateSkipsCompareAndSkip := fun x kk s =>
  ⟨decodeWord_patternValue (i := .seImm x kk) rfl, skipIf_movesPcOnly s beq_iff_eq,
    decodeWord_patternValue (i := .sneImm x kk) rfl, skipIf_movesPcOnly s bne_iff_ne⟩

/-- Settles O19: by the rule for skips, the test being the equality of two registers or its negation. -/
theorem registerSkipsCompareAndSkip : Obligations.RegisterSkipsCompareAndSkip := fun x y s =>
  ⟨decodeWord_patternValue (i := .seReg x y) rfl, skipIf_movesPcOnly s beq_iff_eq,
    decodeWord_patternValue (i := .sneReg x y) rfl, skipIf_movesPcOnly s bne_iff_ne⟩

end Sys2Proof.Machine
end

section
/-!
PROOFS. Register loads (42_alu.md R80, R83). Both words decode by `decodeWord_patternValue`, and both instructions are the shared
operation `writeAndAdvance`, so the law of that operation says what they write and that nothing else changes.
-/

namespace Sys2Proof.Machine

/-- Settles O20: by the rule for one register write, the value being the immediate or `V[y]`. -/
theorem registerLoadsWriteTheirRegister : Obligations.RegisterLoadsWriteTheirRegister := fun x y kk s =>
  ⟨decodeWord_patternValue (i := .ldImm x kk) rfl, writeAndAdvance_writesReg s x kk,
    decodeWord_patternValue (i := .ldReg x y) rfl, writeAndAdvance_writesReg s x (s.readV y)⟩

end Sys2Proof.Machine
end

section
/-!
PROOFS. Loading the index register (43_index_memory.md R95). The word decodes by `decodeWord_patternValue`; the instruction writes the
address widened to sixteen bits, and the widening keeps the number (`addrOperand_toNat`), so bits 15:12 of `I` become 0.
-/

namespace Sys2Proof.Machine

/-- Annn advances `pc` and writes its widened address to `I`, whatever the state (R95). -/
theorem exec_ldI (nnn : Addr12) (s : State) :
    exec (.ldI nnn) s = .next { s with idx := addrOperand nnn, pc := s.pc + 2 } := rfl

/-- Settles O26: by the equation for Annn, the new `I` being the address as a number. -/
theorem loadIndexSetsTwelveBits : Obligations.LoadIndexSetsTwelveBits := fun nnn s =>
  ⟨decodeWord_patternValue (i := .ldI nnn) rfl, _, exec_ldI nnn s, rfl, addrOperand_toNat nnn⟩

end Sys2Proof.Machine
end

section
/-!
PROOFS. The framebuffer (44_display.md R105, R109). 00E0 is one equation. For the mutators, the key fact is that an instruction that does
not draw leaves the framebuffer, whether it completes or raises: a guarded action that answers a next state either happened or changed
the status alone. That no step reads the draw flag is lifted from the instructions, `exec_withoutDrawFlag`, to fetch and decode.
-/

namespace Sys2Proof.Machine

/-! ### Clear -/

/-- 00E0 advances `pc`, blanks the screen and sets the draw flag, whatever the state (R105). -/
theorem exec_cls (s : State) :
    exec .cls s = .next { s with gfx := Vector.replicate 2048 false, drawFlag := true, pc := s.pc + 2 } := rfl

/-- Settles O32: by the equation for 00E0, every cell of the new framebuffer being the replicated 0. -/
theorem clearBlanksTheScreenAndSetsTheFlag : Obligations.ClearBlanksTheScreenAndSetsTheFlag :=
  ⟨decodeWord_patternValue (i := .cls) rfl, fun s => ⟨_, exec_cls s, rfl, fun c => Vector.getElem_replicate c.isLt⟩⟩

/-! ### Guarded actions: done, or the status alone changed -/

section
variable {s t : State}

theorem guardFootprint_next {n : Nat} {act : Result} (h : guardFootprint n s act = .next t) :
    act = .next t ∨ ∃ c k, t = { s with status := .faulted c k } := by
  obtain ⟨-, hg⟩ | ⟨-, -, hg⟩ := guardFootprint_cases n s act
  · exact .inl (hg.symm.trans h)
  · cases hg.symm.trans h
    exact .inr ⟨_, _, rfl⟩

theorem withKey_next {x : Reg} {act : Bool → Result} (h : withKey x s act = .next t) :
    (∃ pressed, act pressed = .next t) ∨ ∃ c k, t = { s with status := .faulted c k } := by
  obtain ⟨k, -, hk⟩ | ⟨-, hk⟩ := withKey_cases x s act
  · exact .inl ⟨s.keypad.get k, hk.symm.trans h⟩
  · cases hk.symm.trans h
    exact .inr ⟨_, _, rfl⟩

/-! ### Instructions that do not draw leave the framebuffer -/

theorem guardFootprint_gfx {n : Nat} {u : State} (h : guardFootprint n s (.next u) = .next t) (hu : u.gfx = s.gfx) :
    t.gfx = s.gfx := by
  obtain hact | ⟨_, _, rfl⟩ := guardFootprint_next h
  · cases hact
    exact hu
  · rfl

/-- Both key skips, whatever they make of the key's level. -/
theorem withKey_skipIf_gfx {x : Reg} {test : Bool → Bool}
    (h : withKey x s (fun pressed => .next (s.skipIf (test pressed))) = .next t) : t.gfx = s.gfx := by
  obtain ⟨_, hact⟩ | ⟨_, _, rfl⟩ := withKey_next h
  · cases hact
    rfl
  · rfl

theorem execRet_gfx (h : execRet s = .next t) : t.gfx = s.gfx := by
  unfold execRet at h
  split at h <;> cases h <;> rfl

theorem execCall_gfx {nnn : Addr12} (h : execCall nnn s = .next t) : t.gfx = s.gfx := by
  unfold execCall at h
  split at h <;> cases h <;> rfl

theorem execLdVxK_gfx {x : Reg} (h : execLdVxK x s = .next t) : t.gfx = s.gfx := by
  unfold execLdVxK at h
  split at h <;> cases h <;> rfl

theorem exec_gfx_of_not_draws {i : Instr} (hi : i.draws = false) (h : exec i s = .next t) : t.gfx = s.gfx := by
  cases i with
  | cls | drw => cases hi
  | ret => exact execRet_gfx h
  | call => exact execCall_gfx h
  | skp => exact withKey_skipIf_gfx (test := id) h
  | sknp => exact withKey_skipIf_gfx (test := not) h
  | ldVxK => exact execLdVxK_gfx h
  | ldB | storeRegs | loadRegs => exact guardFootprint_gfx h rfl
  | _ => cases h; rfl

/-! ### Steps that change the framebuffer -/

theorem eq_cls_or_drw_of_draws {i : Instr} (hi : i.draws = true) : i = .cls ∨ ∃ x y n, i = .drw x y n := by
  cases i with
  | cls => exact .inl rfl
  | drw x y n => exact .inr ⟨x, y, n, rfl⟩
  | _ => cases hi

theorem step_gfx_ne (h : step s = .next t) (hne : t.gfx ≠ s.gfx) :
    decodeWord s.fetchWord = some .cls ∨ ∃ x y n, decodeWord s.fetchWord = some (.drw x y n) := by
  obtain ⟨_, _, -, rfl⟩ | ⟨-, -, rfl⟩ | ⟨-, -, -, rfl⟩ | ⟨-, -, i, hd, hexec⟩ := step_cases h
  · exact absurd rfl hne
  · exact absurd rfl hne
  · exact absurd rfl hne
  · have hi : i.draws = true := Bool.of_not_eq_false fun hi => hne (exec_gfx_of_not_draws hi hexec)
    rw [hd]
    obtain rfl | ⟨x, y, n, rfl⟩ := eq_cls_or_drw_of_draws hi
    · exact .inl rfl
    · exact .inr ⟨x, y, n, rfl⟩

/-! ### The host operations -/

theorem tick_gfx (h : tick s = .next t) : t.gfx = s.gfx := by
  obtain ⟨-, ht⟩ := whileRunning_next h
  cases ht
  rfl

theorem setKey_gfx {k : Nat} {b : Bool} (h : setKey k b s = .next t) : t.gfx = s.gfx := by
  obtain ⟨-, ht⟩ := whileRunning_next h
  split at ht <;> cases ht
  rfl

theorem load_gfx {bytes : List Byte} (h : load bytes s = .next t) : t.gfx = s.gfx := by
  obtain ⟨-, ht⟩ := whileRunning_next h
  split at ht <;> cases ht
  rfl

theorem clearDrawFlag_gfx (h : clearDrawFlag s = .next t) : t.gfx = s.gfx := by
  obtain ⟨-, ht⟩ := whileRunning_next h
  cases ht
  rfl

end

/-! ### The step does not read the draw flag -/

@[simp] theorem State.withDrawFlag_status (s : State) (b : Bool) : (s.withDrawFlag b).status = s.status := rfl

@[simp] theorem State.withDrawFlag_fetchable (s : State) (b : Bool) : (s.withDrawFlag b).fetchable = s.fetchable := rfl

@[simp] theorem State.withDrawFlag_fetchWord (s : State) (b : Bool) : (s.withDrawFlag b).fetchWord = s.fetchWord := rfl

theorem fetchDecodeExecute_withoutDrawFlag (s : State) (b : Bool) :
    Result.map State.withoutDrawFlag (fetchDecodeExecute exec (s.withDrawFlag b)) =
      Result.map State.withoutDrawFlag (fetchDecodeExecute exec s) := by
  unfold fetchDecodeExecute
  rw [State.withDrawFlag_fetchable, State.withDrawFlag_fetchWord]
  split
  · cases decodeWord s.fetchWord with
    | some i => exact exec_withoutDrawFlag i s b
    | none => rfl
  · rfl

theorem step_withoutDrawFlag (s : State) (b : Bool) :
    Result.map State.withoutDrawFlag (step (s.withDrawFlag b)) = Result.map State.withoutDrawFlag (step s) := by
  unfold step
  rw [State.withDrawFlag_status]
  cases s.status with
  | notStarted => rfl
  | faulted => rfl
  | running => exact fetchDecodeExecute_withoutDrawFlag s b

/-- Settles O44: by what an instruction that does not draw leaves, by each host operation, and by the step on two draw flags. -/
theorem framebufferIsMutatedOnlyByClearAndDraw : Obligations.FramebufferIsMutatedOnlyByClearAndDraw :=
  ⟨fun _ _ => step_gfx_ne, fun _ _ => tick_gfx, fun _ _ _ _ => setKey_gfx, fun _ _ _ => load_gfx,
    fun _ _ => clearDrawFlag_gfx, step_withoutDrawFlag⟩

end Sys2Proof.Machine
end

section
/-!
PROOFS. The timer tick (60_exceptions.md R128). A count down is a subtraction of natural numbers, which stops at 0 as the timer does.
-/

namespace Sys2Proof.Machine

/-- A timer at 0 stays 0 and does not wrap to 255: the subtraction on the right is the truncated one. -/
theorem countDown_toNat (b : Byte) : (countDown b).toNat = b.toNat - 1 := by
  unfold countDown
  split
  · exact BitVec.toNat_sub_of_le (y := 1) (BitVec.le_def.mpr ‹0 < b.toNat›)
  · omega

theorem tick_running {s : State} (h : s.status = .running) :
    tick s = .next { s with delayTimer := countDown s.delayTimer, soundTimer := countDown s.soundTimer } :=
  whileRunning_running _ h

/-- Settles O57: the state after a tick is given by `tick_running`, and each of its timers by `countDown_toNat`. -/
theorem tickCountsBothTimersDown : Obligations.TickCountsBothTimersDown := fun s hs =>
  ⟨_, tick_running hs, rfl, countDown_toNat s.delayTimer, countDown_toNat s.soundTimer⟩

end Sys2Proof.Machine
end

section
/-!
PROOFS. Loading an image and the reset state (70_reset_and_hazards.md R140, R143). A load that fits is one run of byte writes inside
`mem`, so the law of such a run, `Memory.read_writeBytes`, says what every address reads afterwards. `Init` lists no byte of memory, so
every address reads as its reset contents.
-/

namespace Sys2Proof.Machine

/-! ### Load -/

section
variable {bytes : List Byte} {s : State}

theorem load_of_length_le (hs : s.status = .running) (hlen : bytes.length ≤ 3584) :
    load bytes s = .next { s with mem := s.mem.writeBytes 0x200 bytes } :=
  (whileRunning_running _ hs).trans (if_neg hlen.not_gt)

theorem load_of_length_gt (hs : s.status = .running) (hlen : bytes.length > 3584) : load bytes s = .fault .loadError :=
  (whileRunning_running _ hs).trans (if_pos hlen)

end

section
variable {bytes : List Byte} {m : Memory} {a : Nat}

/-- Inside the run of bytes just written, a read gives the byte of that position. -/
theorem Memory.read_writeBytes_inside (hm : m.wf = true) (ha : a + bytes.length ≤ Config.memSize) (j : Nat)
    (hj : j < bytes.length) : (m.writeBytes a bytes).read (a + j) = bytes[j] := by
  rw [Memory.read_writeBytes hm ha, if_pos ⟨Nat.le_add_right a j, Nat.add_lt_add_left hj a⟩, Nat.add_sub_cancel_left,
    List.getD_eq_getElem _ _ hj]

/-- Below and above the run of bytes just written, a read gives what it gave before. -/
theorem Memory.read_writeBytes_outside (hm : m.wf = true) (ha : a + bytes.length ≤ Config.memSize) {b : Nat}
    (hb : b < a ∨ a + bytes.length ≤ b) : (m.writeBytes a bytes).read b = m.read b := by
  rw [Memory.read_writeBytes hm ha, if_neg (by omega)]

end

/-- Settles O55: by the two equations for `load`; an image that fits ends inside `mem`, so the laws of a run of writes apply. -/
theorem loadCopiesTheImageOrReportsLoadError : Obligations.LoadCopiesTheImageOrReportsLoadError := by
  refine fun bytes s hwf hs => ⟨fun hlen => ?_, load_of_length_gt hs⟩
  have hfits : 0x200 + bytes.length ≤ Config.memSize := Nat.add_le_add_left hlen 0x200
  exact ⟨_, load_of_length_le hs hlen, rfl, Memory.read_writeBytes_inside hwf hfits,
    fun _ => Memory.read_writeBytes_outside hwf hfits⟩

/-! ### Init -/

/-- The font where FONT_TABLE stands, 0 elsewhere (10_state.md R27). -/
theorem init_mem_read (s : State) (a : Nat) :
    (init s).mem.read a = if 0x050 ≤ a ∧ a < 0x0A0 then fontTable.getD (a - 0x050) 0 else 0 := rfl

/-- Settles O54: by the law of each field of `init`, an entry of a register file or grid being the replicated 0, and by
`init_mem_read`. -/
theorem initGivesTheResetState : Obligations.InitGivesTheResetState := fun s =>
  ⟨init_pc s, init_idx s, init_sp s, fun r => Vector.getElem_replicate r.isLt, fun j => Vector.getElem_replicate j.isLt,
    fun k => Vector.getElem_replicate k.isLt, fun c => Vector.getElem_replicate c.isLt, fun a _ => init_mem_read s a,
    init_delayTimer s, init_soundTimer s, init_drawFlag s, init_status s, init_diagLog s⟩

end Sys2Proof.Machine
end

section
/-!
PROOFS. The decoder and the encoder are inverse to each other (30_encoding.md sections 4 and 5), and the words the decoder refuses are
the listed ones (section 6). What a secondary decoder gives, it gives because the fixed digits it compares are those of the word, and the
operands are the word's other fields; so the encoding of the instruction is the assembly of the word's own fields, which is the word.
-/

namespace Sys2Proof

/-- Settles O1: by `decodeWord_encode`, the fields of an encoded word being the operands. -/
theorem encodeThenDecodeGivesTheInstruction : Obligations.EncodeThenDecodeGivesTheInstruction := fun _ => decodeWord_encode

/-- Settles O5: by `encode_toNat`, the assembled fields as one number. -/
theorem encodingSpellsThePattern : Obligations.EncodingSpellsThePattern := fun _ => encode_toNat

/-- Settles O6: each sample word is the number its instruction's pattern spells; the word 0x5121 fails the comparison of family 5. -/
theorem sampleWordsDecodeAsThePatternsSay : Obligations.SampleWordsDecodeAsThePatternsSay :=
  ⟨decodeWord_patternValue (i := .cls) rfl, decodeWord_patternValue (i := .ret) rfl,
    decodeWord_patternValue (i := .jp 0xABC) rfl, decodeWord_patternValue (i := .call 0x20A) rfl,
    decodeWord_patternValue (i := .seImm 3 0x2A) rfl, decodeWord_patternValue (i := .sneImm 3 0x2B) rfl,
    decodeWord_patternValue (i := .seReg 1 2) rfl, decodeWord_patternValue (i := .ldImm 10 0x3C) rfl,
    decodeWord_patternValue (i := .addImm 2 0x64) rfl, decodeWord_patternValue (i := .addReg 1 2) rfl,
    decodeWord_patternValue (i := .sneReg 1 2) rfl, decodeWord_patternValue (i := .ldI 0x2F0) rfl,
    decodeWord_patternValue (i := .jpV0 0x3FF) rfl, decodeWord_patternValue (i := .rnd 1 0x0F) rfl,
    decodeWord_patternValue (i := .drw 0 1 5) rfl, decodeWord_patternValue (i := .skp 3) rfl,
    decodeWord_patternValue (i := .loadRegs 15) rfl, by decide⟩

/-! ### The word of a decoded instruction -/

/-- The instruction is well-formed, and the word is the one it encodes to. -/
def Spells (op : Word) (i : Instr) : Prop := i.wellFormed = true ∧ encode i = op

section
variable {op : Word} {i : Instr} {f n : BitVec 4} {kk : Byte}

theorem encA_eq_of_field (hf : familyField op = f) : encA f (nnnField op) = op := by
  rw [← hf, encA_fields]

theorem encXK_eq_of_fields (hf : familyField op = f) (hk : kkField op = kk) : encXK f (xField op) kk = op := by
  rw [← hf, ← hk, encXK_fields]

theorem encXYN_eq_of_fields (hf : familyField op = f) (hn : nField op = n) :
    encXYN f (xField op) (yField op) n = op := by
  rw [← hf, ← hn, encXYN_fields]

/-- One comparison of a secondary decoder, which gives `j` where the comparison holds and goes on with `rest` otherwise. -/
theorem spells_of_ite {c : Prop} [Decidable c] {j : Instr} {rest : Option Instr} (hj : c → Spells op j)
    (hrest : rest = some i → Spells op i) (h : (if c then some j else rest) = some i) : Spells op i := by
  split_ifs at h with hc
  · cases h; exact hj hc
  · exact hrest h

theorem spells_of_decodeFamily0 : decodeFamily0 op = some i → Spells op i := by
  iterate 2 refine spells_of_ite (fun h => ⟨rfl, h.symm⟩) ?_
  nofun

theorem spells_of_decodeLowNibble0 {j : Reg → Reg → Instr} (h : decodeLowNibble0 op j = some i)
    (hj : nField op = 0x0#4 → Spells op (j (xField op) (yField op))) : Spells op i :=
  spells_of_ite (rest := none) hj nofun h

theorem spells_of_decodeFamily8 (hf : familyField op = 0x8#4) : decodeFamily8 op = some i → Spells op i := by
  iterate 9 refine spells_of_ite (fun hn => ⟨rfl, encXYN_eq_of_fields hf hn⟩) ?_
  nofun

theorem spells_of_decodeFamilyE (hf : familyField op = 0xE#4) : decodeFamilyE op = some i → Spells op i := by
  iterate 2 refine spells_of_ite (fun hk => ⟨rfl, encXK_eq_of_fields hf hk⟩) ?_
  nofun

theorem spells_of_decodeFamilyF (hf : familyField op = 0xF#4) : decodeFamilyF op = some i → Spells op i := by
  iterate 9 refine spells_of_ite (fun hk => ⟨rfl, encXK_eq_of_fields hf hk⟩) ?_
  nofun

/-- The row count of a decoded Dxyn is the word's low digit. -/
theorem spells_drw (hf : familyField op = 0xD#4) : Spells op (.drw (xField op) (yField op) (nField op).toNat) := by
  refine ⟨decide_eq_true (Nat.le_of_lt_succ (nField op).isLt), encXYN_eq_of_fields hf ?_⟩
  rw [BitVec.ofNat_toNat, BitVec.setWidth_eq]

theorem spells_of_decodeWord (h : decodeWord op = some i) : Spells op i := by
  obtain hf | hf | hf | hf | hf | hf | hf | hf | hf | hf | hf | hf | hf | hf | hf | hf := nibble_cases (familyField op)
  · exact spells_of_decodeFamily0 ((decodeWord_family0 hf).symm.trans h)
  · cases (decodeWord_family1 hf).symm.trans h; exact ⟨rfl, encA_eq_of_field hf⟩
  · cases (decodeWord_family2 hf).symm.trans h; exact ⟨rfl, encA_eq_of_field hf⟩
  · cases (decodeWord_family3 hf).symm.trans h; exact ⟨rfl, encXK_eq_of_fields hf rfl⟩
  · cases (decodeWord_family4 hf).symm.trans h; exact ⟨rfl, encXK_eq_of_fields hf rfl⟩
  · exact spells_of_decodeLowNibble0 ((decodeWord_family5 hf).symm.trans h) fun hn => ⟨rfl, encXYN_eq_of_fields hf hn⟩
  · cases (decodeWord_family6 hf).symm.trans h; exact ⟨rfl, encXK_eq_of_fields hf rfl⟩
  · cases (decodeWord_family7 hf).symm.trans h; exact ⟨rfl, encXK_eq_of_fields hf rfl⟩
  · exact spells_of_decodeFamily8 hf ((decodeWord_family8 hf).symm.trans h)
  · exact spells_of_decodeLowNibble0 ((decodeWord_family9 hf).symm.trans h) fun hn => ⟨rfl, encXYN_eq_of_fields hf hn⟩
  · cases (decodeWord_familyA hf).symm.trans h; exact ⟨rfl, encA_eq_of_field hf⟩
  · cases (decodeWord_familyB hf).symm.trans h; exact ⟨rfl, encA_eq_of_field hf⟩
  · cases (decodeWord_familyC hf).symm.trans h; exact ⟨rfl, encXK_eq_of_fields hf rfl⟩
  · cases (decodeWord_familyD hf).symm.trans h; exact spells_drw hf
  · exact spells_of_decodeFamilyE hf ((decodeWord_familyE hf).symm.trans h)
  · exact spells_of_decodeFamilyF hf ((decodeWord_familyF hf).symm.trans h)

end

/-- Settles O2: by `spells_of_decodeWord`, over the sixteen families. -/
theorem decodeThenEncodeGivesTheWord : Obligations.DecodeThenEncodeGivesTheWord := fun _ _ => spells_of_decodeWord

/-! ### The words that are not instructions -/

/-- The table of 30_encoding.md section 6, on the word as a number. -/
def Unlisted (w : Nat) : Prop :=
  (w / 0x1000 = 0x0 ∧ w ≠ 0x00E0 ∧ w ≠ 0x00EE) ∨
  (w / 0x1000 = 0x5 ∧ w % 16 ≠ 0) ∨
  (w / 0x1000 = 0x8 ∧ w % 16 ∈ [8, 9, 0xA, 0xB, 0xC, 0xD, 0xF]) ∨
  (w / 0x1000 = 0x9 ∧ w % 16 ≠ 0) ∨
  (w / 0x1000 = 0xE ∧ w % 256 ≠ 0x9E ∧ w % 256 ≠ 0xA1) ∨
  (w / 0x1000 = 0xF ∧ w % 256 ∉ [0x07, 0x0A, 0x15, 0x18, 0x1E, 0x29, 0x33, 0x55, 0x65])

section
variable {op : Word}

/-- One comparison of a secondary decoder refuses a word when it fails and the rest refuses it. -/
theorem ite_some_eq_none {c : Prop} [Decidable c] {j : Instr} {rest : Option Instr} :
    (if c then some j else rest) = none ↔ ¬ c ∧ rest = none := by
  split_ifs with hc <;> simp [hc]

theorem decodeFamily0_eq_none : decodeFamily0 op = none ↔ op.toNat ≠ 0x00E0 ∧ op.toNat ≠ 0x00EE := by
  simp [decodeFamily0, ite_some_eq_none, ← BitVec.toNat_inj]

theorem decodeLowNibble0_eq_none {j : Reg → Reg → Instr} : decodeLowNibble0 op j = none ↔ op.toNat % 16 ≠ 0 := by
  simp [decodeLowNibble0, ← BitVec.toNat_inj, nField_toNat]

theorem decodeFamily8_eq_none : decodeFamily8 op = none ↔ op.toNat % 16 ∈ [8, 9, 0xA, 0xB, 0xC, 0xD, 0xF] := by
  simp [decodeFamily8, ite_some_eq_none, ← BitVec.toNat_inj, nField_toNat]
  omega

theorem decodeFamilyE_eq_none : decodeFamilyE op = none ↔ op.toNat % 256 ≠ 0x9E ∧ op.toNat % 256 ≠ 0xA1 := by
  simp [decodeFamilyE, ite_some_eq_none, ← BitVec.toNat_inj, kkField_toNat]

theorem decodeFamilyF_eq_none :
    decodeFamilyF op = none ↔ op.toNat % 256 ∉ [0x07, 0x0A, 0x15, 0x18, 0x1E, 0x29, 0x33, 0x55, 0x65] := by
  simp [decodeFamilyF, ite_some_eq_none, ← BitVec.toNat_inj, kkField_toNat]

theorem decodeWord_eq_none_iff : decodeWord op = none ↔ Unlisted op.toNat := by
  have hfam := familyField_toNat op
  obtain hf | hf | hf | hf | hf | hf | hf | hf | hf | hf | hf | hf | hf | hf | hf | hf := nibble_cases (familyField op)
    <;> rw [hf] at hfam
  · rw [decodeWord_family0 hf, decodeFamily0_eq_none]; simp [Unlisted, ← hfam]
  · simp [decodeWord_family1 hf, Unlisted, ← hfam]
  · simp [decodeWord_family2 hf, Unlisted, ← hfam]
  · simp [decodeWord_family3 hf, Unlisted, ← hfam]
  · simp [decodeWord_family4 hf, Unlisted, ← hfam]
  · rw [decodeWord_family5 hf, decodeLowNibble0_eq_none]; simp [Unlisted, ← hfam]
  · simp [decodeWord_family6 hf, Unlisted, ← hfam]
  · simp [decodeWord_family7 hf, Unlisted, ← hfam]
  · rw [decodeWord_family8 hf, decodeFamily8_eq_none]; simp [Unlisted, ← hfam]
  · rw [decodeWord_family9 hf, decodeLowNibble0_eq_none]; simp [Unlisted, ← hfam]
  · simp [decodeWord_familyA hf, Unlisted, ← hfam]
  · simp [decodeWord_familyB hf, Unlisted, ← hfam]
  · simp [decodeWord_familyC hf, Unlisted, ← hfam]
  · simp [decodeWord_familyD hf, Unlisted, ← hfam]
  · rw [decodeWord_familyE hf, decodeFamilyE_eq_none]; simp [Unlisted, ← hfam]
  · rw [decodeWord_familyF hf, decodeFamilyF_eq_none]; simp [Unlisted, ← hfam]

end

/-- Settles O4: family by family, each secondary decoder refusing exactly what its row of the table lists. -/
theorem unrecognisedWordsAreTheListedOnes : Obligations.UnrecognisedWordsAreTheListedOnes := fun _ => decodeWord_eq_none_iff

end Sys2Proof
end

section
/-!
PROOFS. What an instruction does, in one equation (40_step_cycle.md R63, R65): it raises the fault the table of 60_exceptions.md R121
gives it, or answers one next state, `State.completed`. The rules about faults and about `pc` follow from that equation, and so do the
frames and invariants after them: a fact about every instruction is a fact about `State.completed`, proved by cases on the instruction.
-/

namespace Sys2Proof.Machine

/-! ### The completed instruction -/

/-- The next state of an outcome, or `s` where there is none. -/
def Result.stateOr (s : State) : Result → State
  | .next t => t
  | .fault _ => s
  | .refused _ => s

/-- The canvas after a Dxyn: the sprite at `I`, its coordinates latched and reduced (44_display.md R107). -/
def State.drawn (s : State) (x y : Reg) (n : Nat) : Canvas :=
  drawSprite s.mem s.idx.toNat ((s.readV x).toNat % 64) ((s.readV y).toNat % 32) n s.gfx

/-- The state after an instruction that raises nothing. The instructions that can raise are written without their guard; the arms of
the others answer a next state themselves. -/
def State.completed (s : State) (i : Instr) : State :=
  match i with
  | .ret => { s with sp := s.sp - 1, pc := s.stack.getD (s.sp.val - 1) 0 + 2 }
  | .call nnn => { s with stack := s.stack.setIfInBounds s.sp.val s.pc, sp := s.sp + 1, pc := addrOperand nnn }
  | .drw x y n =>
    { (s.writeV flagReg (flagByte (s.drawn x y n).hit)).advance with gfx := (s.drawn x y n).gfx, drawFlag := true }
  | .skp x => s.skipIf (s.keypad.getD (s.readV x).toNat false)
  | .sknp x => s.skipIf (!s.keypad.getD (s.readV x).toNat false)
  | .ldB x => { s.advance with mem := s.mem.writeBytes s.idx.toNat (bcdDigits (s.readV x)) }
  | .storeRegs x =>
    { s.advance with mem := s.mem.writeBytes s.idx.toNat (s.regsUpTo x), idx := s.idx + BitVec.ofNat 16 (x.val + 1) }
  | .loadRegs x => { s.advance with V := s.loadedRegs x, idx := s.idx + BitVec.ofNat 16 (x.val + 1) }
  | i => Result.stateOr s (exec i s)

/-- What a guarded operation answers: the fault, or the next state `t`. -/
def faultOr (fault : Option (FaultCause × Nat)) (s t : State) : Result :=
  match fault with
  | some (cause, info) => raise cause info s
  | none => .next t

/-! ### The guards as tables -/

section
variable {s : State} {n : Nat} {x : Reg}

theorem guardFootprint_eq_faultOr (t : State) : guardFootprint n s (.next t) =
    faultOr (if n = 0 ∨ s.idx.toNat + n ≤ 0x1000 then none else some (.dataAddressOutOfRange, max s.idx.toNat 0x1000)) s t := by
  obtain ⟨hin, hg⟩ | ⟨hn, hout, hg⟩ := guardFootprint_cases n s (.next t)
  · rw [hg, if_pos hin]; rfl
  · rw [hg, if_neg (by omega)]; rfl

theorem vector_get_eq_getD {α : Type} {n : Nat} (v : Vector α n) (j : Fin n) (d : α) : v.get j = v.getD j.val d := by
  simp [Vector.get_eq_getElem, Vector.getD]

theorem vector_set_eq_setIfInBounds {α : Type} {n k : Nat} (v : Vector α n) (a : α) (h : k < n) :
    v.set k a h = v.setIfInBounds k a := by
  ext j hj
  rw [Vector.getElem_set, Vector.getElem_setIfInBounds]

theorem withKey_eq_faultOr (t : Bool → State) : withKey x s (fun pressed => .next (t pressed)) =
    faultOr (if (s.readV x).toNat > 15 then some (.keyIndexOutOfRange, (s.readV x).toNat) else none) s
      (t (s.keypad.getD (s.readV x).toNat false)) := by
  obtain ⟨k, hk, hw⟩ | ⟨hlarge, hw⟩ := withKey_cases x s fun pressed => .next (t pressed)
  · rw [hw, if_neg (by omega), vector_get_eq_getD _ _ false, hk]; rfl
  · rw [hw, if_pos hlarge]; rfl

theorem faultOf_ret_eq_none : faultOf .ret s = none ↔ s.sp ≠ 0 :=
  ite_eq_right_iff.trans (imp_congr_right fun _ => iff_false_intro nofun)

theorem faultOf_call_eq_none {nnn : Addr12} : faultOf (.call nnn) s = none ↔ s.sp ≠ 16 :=
  ite_eq_right_iff.trans (imp_congr_right fun _ => iff_false_intro nofun)

/-- On a stack that is not empty a pop does not wrap. -/
theorem sp_sub_one_val (h : s.sp ≠ 0) : (s.sp - 1).val + 1 = s.sp.val := by
  have hpos : s.sp.val ≠ 0 := fun e => h (Fin.ext e)
  rw [Fin.val_sub_one_of_ne_zero h]
  omega

/-- On a stack that is not full a push does not wrap. -/
theorem sp_add_one_val (h : s.sp ≠ 16) : (s.sp + 1).val = s.sp.val + 1 :=
  Fin.val_add_one_of_lt (Fin.lt_last_iff_ne_last.2 h)

theorem execRet_eq_faultOr : execRet s = faultOr (faultOf .ret s) s (s.completed .ret) := by
  by_cases h : s.sp = 0
  · rw [show faultOf .ret s = some _ from if_pos h]
    exact dif_pos (Fin.ext_iff.1 h)
  · have hsp := sp_sub_one_val h
    have hfin : Fin.castSucc ⟨s.sp.val - 1, by omega⟩ = s.sp - 1 := Fin.ext (Nat.sub_eq_of_eq_add hsp.symm)
    rw [faultOf_ret_eq_none.2 h, execRet, dif_neg (by omega)]
    simp only [hfin, vector_get_eq_getD _ _ (0 : Word)]
    rfl

theorem execCall_eq_faultOr (nnn : Addr12) : execCall nnn s = faultOr (faultOf (.call nnn) s) s (s.completed (.call nnn)) := by
  by_cases h : s.sp = 16
  · rw [show faultOf (.call nnn) s = some _ from if_pos h]
    exact dif_pos (Fin.ext_iff.1 h)
  · have hv : s.sp.val ≠ 16 := fun e => h (Fin.ext e)
    have hfin : Fin.succ ⟨s.sp.val, by omega⟩ = s.sp + 1 := Fin.ext (sp_add_one_val h).symm
    rw [faultOf_call_eq_none.2 h, execCall, dif_neg hv]
    simp only [hfin, vector_set_eq_setIfInBounds]
    rfl

theorem completed_ldVxK_eq : s.completed (.ldVxK x) = Result.stateOr s (execLdVxK x s) := rfl

theorem execLdVxK_eq_next : execLdVxK x s = .next (s.completed (.ldVxK x)) := by
  rw [completed_ldVxK_eq, execLdVxK]
  cases s.pressedKeys <;> rfl

end

/-- An instruction raises the fault of the table, or completes. -/
theorem exec_eq_faultOr (i : Instr) (s : State) : exec i s = faultOr (faultOf i s) s (s.completed i) := by
  cases i with
  | ret => exact execRet_eq_faultOr
  | call nnn => exact execCall_eq_faultOr nnn
  | skp x => exact withKey_eq_faultOr fun pressed => s.skipIf pressed
  | sknp x => exact withKey_eq_faultOr fun pressed => s.skipIf (!pressed)
  | ldVxK x => exact execLdVxK_eq_next
  | drw | ldB | storeRegs | loadRegs => exact guardFootprint_eq_faultOr _
  | _ => rfl

section
variable {i : Instr} {s t : State}

theorem exec_of_no_fault (h : faultOf i s = none) : exec i s = .next (s.completed i) := by
  rw [exec_eq_faultOr, h]; rfl

theorem exec_of_fault {cause : FaultCause} {info : Nat} (h : faultOf i s = some (cause, info)) :
    Raises (exec i s) s cause info := by
  rw [exec_eq_faultOr, h]; rfl

/-- Everything an instruction can do. -/
theorem exec_cases (h : exec i s = .next t) :
    (faultOf i s = none ∧ t = s.completed i) ∨
    ∃ cause info, faultOf i s = some (cause, info) ∧ t = { s with status := .faulted cause info } := by
  cases hf : faultOf i s with
  | none => exact .inl ⟨rfl, Host.Outcome.next.inj (h.symm.trans (exec_of_no_fault hf))⟩
  | some f => exact .inr ⟨f.1, f.2, rfl, Host.Outcome.next.inj (h.symm.trans (exec_of_fault hf))⟩

/-- Fx0A changes nothing, or writes one register, takes a free value and advances. -/
theorem completed_ldVxK (x : Reg) (s : State) : s.completed (.ldVxK x) = s ∨
    ∃ v, s.completed (.ldVxK x) = ({ s with freeIndex := s.freeIndex + 1 }.writeV x v).advance := by
  rw [completed_ldVxK_eq, execLdVxK]
  cases s.pressedKeys with
  | nil => exact .inl rfl
  | cons k rest => exact .inr ⟨_, rfl⟩

/-- So beside registers, `pc` and the free values it changes nothing. -/
theorem completed_ldVxK_frame (x : Reg) (s : State) :
    ∃ V pc free, s.completed (.ldVxK x) = { s with V := V, pc := pc, freeIndex := free } := by
  obtain h | ⟨v, h⟩ := completed_ldVxK x s
  · exact ⟨s.V, s.pc, s.freeIndex, h⟩
  · exact ⟨_, _, _, h⟩

/-- Fx65 changes nothing but registers, `I` and `pc`. -/
theorem completed_loadRegs_frame (x : Reg) (s : State) :
    ∃ V idx, s.completed (.loadRegs x) = { s with V := V, idx := idx, pc := s.pc + 2 } := ⟨_, _, rfl⟩

theorem completed_status (i : Instr) (s : State) : (s.completed i).status = s.status := by
  cases i with
  | ldVxK x =>
    obtain ⟨_, _, _, h⟩ := completed_ldVxK_frame x s
    exact (congrArg State.status h :)
  | loadRegs x =>
    obtain ⟨_, _, h⟩ := completed_loadRegs_frame x s
    exact (congrArg State.status h :)
  | _ => rfl

end

/-! ### Steps that fault -/

section
variable {s t : State}

/-- The status after a `Step` of a RUNNING core. -/
theorem step_status (hs : s.status = .running) (h : step s = .next t) :
    t.status =
      (if s.pc.toNat > 0xFFE then .faulted .fetchOutOfRange s.pc.toNat
       else match decodeWord s.fetchWord with
        | none => .running
        | some i => match faultOf i s with
          | none => .running
          | some (cause, info) => .faulted cause info) := by
  obtain ⟨c, k, hf, -⟩ | ⟨-, hpc, rfl⟩ | ⟨-, hpc, hd, rfl⟩ | ⟨-, hpc, i, hd, hexec⟩ := step_cases h
  · cases hs.symm.trans hf
  · rw [if_pos hpc]
  · rw [if_neg hpc.not_gt, hd]; exact hs
  · rw [if_neg hpc.not_gt, hd]
    obtain ⟨hf, rfl⟩ | ⟨cause, info, hf, rfl⟩ := exec_cases hexec
    · simp only [hf, completed_status, hs]
    · simp only [hf]

theorem step_eq_of_status_ne (hs : s.status = .running) (h : step s = .next t) (ht : t.status ≠ .running) :
    t = { s with status := t.status } := by
  obtain ⟨_, _, -, rfl⟩ | ⟨-, -, rfl⟩ | ⟨-, -, -, rfl⟩ | ⟨-, -, i, -, hexec⟩ := step_cases h
  · rfl
  · rfl
  · exact absurd hs ht
  · obtain ⟨-, rfl⟩ | ⟨_, _, -, rfl⟩ := exec_cases hexec
    · exact absurd ((completed_status i s).trans hs) ht
    · rfl

theorem exec_answers (i : Instr) (s : State) : ∃ t, exec i s = .next t := by
  cases hf : faultOf i s with
  | none => exact ⟨_, exec_of_no_fault hf⟩
  | some f => exact ⟨_, exec_of_fault hf⟩

theorem step_answers (hs : s.status = .running) : ∃ t, step s = .next t := by
  rw [step_running hs]
  unfold fetchDecodeExecute
  split
  · cases decodeWord s.fetchWord with
    | some i => exact exec_answers i s
    | none => exact ⟨_, rfl⟩
  · exact ⟨_, rfl⟩

/-- A step of a RUNNING core ends RUNNING or FAULTED. -/
theorem step_status_ne_notStarted (hs : s.status = .running) (h : step s = .next t) : t.status ≠ .notStarted := by
  rw [step_status hs h]
  repeat' split
  all_goals nofun

end

/-- Settles O9: by what a `Step` can do and the fault an instruction raises. -/
theorem stepFaultsExactlyWhenTheTableSays : Obligations.StepFaultsExactlyWhenTheTableSays := fun _ _ => step_status

/-- Settles O10: the fetch fault and the fault of an instruction change `status` alone, and nothing else leaves RUNNING. -/
theorem aFaultingStepChangesOnlyStatus : Obligations.AFaultingStepChangesOnlyStatus := fun _ _ => step_eq_of_status_ne

/-- Settles O12: fetch, decode and every instruction answer a next state. -/
theorem aRunningCoreAlwaysSteps : Obligations.ARunningCoreAlwaysSteps := fun _ hs =>
  (step_answers hs).imp fun _ h => ⟨h, step_status_ne_notStarted hs h⟩

/-! ### `pc` -/

theorem pressedKeys_eq_nil {s : State} : s.pressedKeys = [] ↔ ∀ k : Key, s.keypad.get k = false := by
  simp [State.pressedKeys, List.filter_eq_nil_iff]

theorem pcAfter_ldVxK (x : Reg) (s : State) : (s.completed (.ldVxK x)).pc.toNat = pcAfter (.ldVxK x) s := by
  rw [completed_ldVxK_eq, execLdVxK]
  cases hp : s.pressedKeys with
  | nil => exact (if_pos (pressedKeys_eq_nil.1 hp)).symm
  | cons k rest =>
    refine (BitVec.toNat_add _ _).trans (if_neg fun h => ?_).symm
    cases hp.symm.trans (pressedKeys_eq_nil.2 h)

theorem skipIf_pc_toNat (s : State) {c c' : Bool} (h : c = c') : (s.skipIf c).pc.toNat =
    match some c' with
    | some true => (s.pc.toNat + 4) % 65536
    | _ => (s.pc.toNat + 2) % 65536 := by
  cases h
  cases c <;> exact BitVec.toNat_add _ _

theorem completed_pc (i : Instr) (s : State) : (s.completed i).pc.toNat = pcAfter i s := by
  cases i with
  | ldVxK x => exact pcAfter_ldVxK x s
  | jp nnn | call nnn => exact addrOperand_toNat nnn
  | ret => exact BitVec.toNat_add _ _
  | jpV0 nnn =>
    refine (addrOperand_add_readV16_toNat s nnn 0).trans (Nat.mod_eq_of_lt ?_).symm
    omega
  | seImm | seReg | skp | sknp => exact skipIf_pc_toNat s rfl
  | sneImm | sneReg => exact skipIf_pc_toNat s (Bool.eq_iff_iff.2 (bne_iff_ne.trans decide_eq_true_iff.symm))
  | _ => exact BitVec.toNat_add _ _

/-- Settles O38: by the equation for an instruction and the `pc` of the completed state. -/
theorem pcFollowsTheTable : Obligations.PcFollowsTheTable := fun i s =>
  ⟨fun h => ⟨_, exec_of_no_fault h, completed_pc i s⟩, fun _ _ => exec_of_fault⟩

end Sys2Proof.Machine
end

section
/-!
PROOFS. Frames (10_state.md sections 2 to 6, 20_memory.md section 5): what an instruction leaves unchanged. A fault changes `status` alone,
so each frame is a fact about the completed state, by cases on the instruction. Memory is said exactly: every byte after an instruction is
the one `byteAfter` gives, of which the frame of memory and the fetch of stored code (20_memory.md section 7) are two readings.
-/

namespace Sys2Proof.Machine

/-! ### Every piece of state that one kind of instruction writes -/

theorem completed_readV {i : Instr} {r : Reg} (s : State) (h : mayWrite i r = false) :
    (s.completed i).readV r = s.readV r := by
  cases i with
  | ldImm | addImm | ldReg | orReg | andReg | xorReg | rnd | ldVxDT =>
    exact State.readV_writeV_of_ne _ _ (ne_of_beq_false h)
  | ldVxK x =>
    obtain hc | ⟨v, hc⟩ := completed_ldVxK x s <;> rw [hc]
    exact State.readV_writeV_of_ne _ _ (ne_of_beq_false h)
  | addReg | subReg | shr | subnReg | shl =>
    obtain ⟨hx, hflag⟩ := Bool.or_eq_false_iff.1 h
    exact (State.readV_writeResultFlag _ _ _ _ _).trans
      ((if_neg (ne_of_beq_false hflag)).trans (if_neg (ne_of_beq_false hx)))
  | drw => exact State.readV_writeV_of_ne _ _ (ne_of_beq_false h)
  | loadRegs x => exact (State.loadedRegs_get s x r).trans (if_neg (of_decide_eq_false h))
  | _ => rfl

theorem completed_idx (i : Instr) (s : State) :
    match i with
    | .ldI _ | .addI _ | .ldF _ | .storeRegs _ | .loadRegs _ => True
    | _ => (s.completed i).idx = s.idx := by
  cases i with
  | ldI | addI | ldF | storeRegs | loadRegs => trivial
  | ldVxK x =>
    obtain ⟨_, _, _, h⟩ := completed_ldVxK_frame x s
    exact (congrArg State.idx h :)
  | _ => rfl

theorem completed_stack (i : Instr) (s : State) :
    match i with
    | .call _ => True
    | _ => (s.completed i).stack = s.stack := by
  cases i with
  | call => trivial
  | ldVxK x =>
    obtain ⟨_, _, _, h⟩ := completed_ldVxK_frame x s
    exact (congrArg State.stack h :)
  | loadRegs x =>
    obtain ⟨_, _, h⟩ := completed_loadRegs_frame x s
    exact (congrArg State.stack h :)
  | _ => rfl

theorem completed_sp (i : Instr) (s : State) :
    match i with
    | .call _ | .ret => True
    | _ => (s.completed i).sp = s.sp := by
  cases i with
  | call | ret => trivial
  | ldVxK x =>
    obtain ⟨_, _, _, h⟩ := completed_ldVxK_frame x s
    exact (congrArg State.sp h :)
  | loadRegs x =>
    obtain ⟨_, _, h⟩ := completed_loadRegs_frame x s
    exact (congrArg State.sp h :)
  | _ => rfl

theorem completed_keypad (i : Instr) (s : State) : (s.completed i).keypad = s.keypad := by
  cases i with
  | ldVxK x =>
    obtain ⟨_, _, _, h⟩ := completed_ldVxK_frame x s
    exact (congrArg State.keypad h :)
  | loadRegs x =>
    obtain ⟨_, _, h⟩ := completed_loadRegs_frame x s
    exact (congrArg State.keypad h :)
  | _ => rfl

theorem completed_diagLog (i : Instr) (s : State) : (s.completed i).diagLog = s.diagLog := by
  cases i with
  | ldVxK x =>
    obtain ⟨_, _, _, h⟩ := completed_ldVxK_frame x s
    exact (congrArg State.diagLog h :)
  | loadRegs x =>
    obtain ⟨_, _, h⟩ := completed_loadRegs_frame x s
    exact (congrArg State.diagLog h :)
  | _ => rfl

/-! ### Memory -/

/-- An instruction that moves bytes and raises nothing moves them inside `mem`. -/
theorem footprint_of_no_fault {i : Instr} {s : State} (h : faultOf i s = none) (hi : dataFootprint i ≠ 0) :
    s.idx.toNat + dataFootprint i ≤ Config.memSize := by
  by_contra hout
  have hno : ¬ (dataFootprint i = 0 ∨ s.idx.toNat + dataFootprint i ≤ 0x1000) := fun h' => h'.elim hi hout
  cases i with
  | drw | ldB | storeRegs | loadRegs => cases (if_neg hno).symm.trans h
  | _ => exact hi rfl

/-- The digits of Fx33 as the bytes of their addresses. -/
theorem bcdDigits_read (x : Reg) (s : State) (a : Nat) :
    (if s.idx.toNat ≤ a ∧ a < s.idx.toNat + (bcdDigits (s.readV x)).length
      then (bcdDigits (s.readV x)).getD (a - s.idx.toNat) 0 else s.mem.read a) = byteAfter (.ldB x) s a := by
  rw [bcdDigits_length, byteAfter]
  by_cases hin : s.idx.toNat ≤ a ∧ a < s.idx.toNat + 3
  · obtain ⟨k, rfl⟩ := Nat.exists_eq_add_of_le hin.1
    have hk : k < 3 := Nat.lt_of_add_lt_add_left hin.2
    rw [if_pos hin, Nat.add_sub_cancel_left]
    interval_cases k <;> simp [bcdDigits]
  · rw [if_neg hin, if_neg (by omega), if_neg (by omega), if_neg (by omega)]

/-- The registers of Fx55 as the bytes of their addresses. -/
theorem regsUpTo_read (x : Reg) (s : State) (a : Nat) :
    (if s.idx.toNat ≤ a ∧ a < s.idx.toNat + (s.regsUpTo x).length
      then (s.regsUpTo x).getD (a - s.idx.toNat) 0 else s.mem.read a) = byteAfter (.storeRegs x) s a := by
  rw [State.regsUpTo_length, byteAfter]
  refine ite_congr (by rw [← Nat.add_assoc, Nat.lt_succ_iff]) (fun hin => ?_) fun _ => rfl
  have hk : a - s.idx.toNat ≤ x.val := Nat.sub_le_iff_le_add'.2 hin.2
  have hlt : a - s.idx.toNat < 16 := hk.trans_lt x.isLt
  exact (State.regsUpTo_getD s (k := ⟨_, hlt⟩) hk).trans (vector_get_eq_getD s.V ⟨_, hlt⟩ 0)

theorem completed_mem_read {i : Instr} {s : State} (hwf : s.mem.wf = true) (h : faultOf i s = none) (a : Nat) :
    (s.completed i).mem.read a = byteAfter i s a := by
  cases i with
  | ldVxK x =>
    obtain ⟨_, _, _, hc⟩ := completed_ldVxK_frame x s
    rw [hc]; rfl
  | loadRegs x =>
    obtain ⟨_, _, hc⟩ := completed_loadRegs_frame x s
    rw [hc]; rfl
  | ldB x =>
    exact (Memory.read_writeBytes hwf (footprint_of_no_fault h (Nat.succ_ne_zero _)) a).trans (bcdDigits_read x s a)
  | storeRegs x =>
    have hin : s.idx.toNat + (s.regsUpTo x).length ≤ Config.memSize := by
      rw [State.regsUpTo_length]
      exact footprint_of_no_fault h (Nat.succ_ne_zero _)
    exact (Memory.read_writeBytes hwf hin a).trans (regsUpTo_read x s a)
  | _ => rfl

theorem byteAfter_of_not_storesTo {i : Instr} {s : State} {a : Nat} (h : storesTo i s a = false) :
    byteAfter i s a = s.mem.read a := by
  cases i with
  | ldB x =>
    have hout := of_decide_eq_false h
    simp only [byteAfter]
    rw [if_neg (by omega), if_neg (by omega), if_neg (by omega)]
  | storeRegs x =>
    have hout := of_decide_eq_false h
    exact if_neg (by omega)
  | _ => rfl

/-! ### The frames of an instruction -/

/-- Settles O39: a fault writes no register, and a completed instruction the ones of the table. -/
theorem onlyDestinationAndFlagRegistersChange : Obligations.OnlyDestinationAndFlagRegistersChange := by
  intro i s t r h hr
  obtain ⟨-, rfl⟩ | ⟨_, _, -, rfl⟩ := exec_cases h
  · exact completed_readV s hr
  · rfl

/-- Settles O40: a byte outside the stored ones is after the instruction what it was before. -/
theorem onlyStoredBytesChange : Obligations.OnlyStoredBytesChange := by
  intro i s t hwf h a ha
  obtain ⟨hf, rfl⟩ | ⟨_, _, -, rfl⟩ := exec_cases h
  · rw [completed_mem_read hwf hf, byteAfter_of_not_storesTo ha]
  · rfl

/-- Settles O41: by the frames of `I`, the stack and `sp` in the completed state; a fault leaves all three. -/
theorem indexAndStackChangeOnlyByTheirInstructions : Obligations.IndexAndStackChangeOnlyByTheirInstructions := by
  intro i s t h
  obtain ⟨-, rfl⟩ | ⟨_, _, -, rfl⟩ := exec_cases h
  · exact ⟨completed_idx i s, completed_stack i s, completed_sp i s⟩
  · cases i <;> exact ⟨by trivial, by trivial, by trivial⟩

/-! ### The frames of a step -/

section
variable {s t : State}

theorem exec_keypad {i : Instr} (h : exec i s = .next t) : t.keypad = s.keypad := by
  obtain ⟨-, rfl⟩ | ⟨_, _, -, rfl⟩ := exec_cases h
  · exact completed_keypad i s
  · rfl

theorem step_keypad (h : step s = .next t) : t.keypad = s.keypad := by
  obtain ⟨_, _, -, rfl⟩ | ⟨-, -, rfl⟩ | ⟨-, -, -, rfl⟩ | ⟨-, -, i, -, hexec⟩ := step_cases h
  · rfl
  · rfl
  · rfl
  · exact exec_keypad hexec

theorem exec_diagLog {i : Instr} (h : exec i s = .next t) : t.diagLog = s.diagLog := by
  obtain ⟨-, rfl⟩ | ⟨_, _, -, rfl⟩ := exec_cases h
  · exact completed_diagLog i s
  · rfl

end

/-- Settles O48: only the case of the unrecognised word touches the log, and it appends the word fetched and its address. -/
theorem diagnosticLogOnlyGrows : Obligations.DiagnosticLogOnlyGrows := by
  intro s t h
  obtain ⟨_, _, -, rfl⟩ | ⟨-, -, rfl⟩ | ⟨-, -, hd, rfl⟩ | ⟨-, -, i, -, hexec⟩ := step_cases h
  · exact .inl rfl
  · exact .inl rfl
  · exact .inr ⟨rfl, hd⟩
  · exact .inl (exec_diagLog hexec)

/-! ### The next fetch -/

theorem step_of_unrecognised {s : State} (hs : s.status = .running) (hpc : s.pc.toNat ≤ 0xFFE)
    (hd : decodeWord s.fetchWord = none) :
    step s = .next { s with diagLog := s.diagLog ++ [.unknownOpcode s.fetchWord s.pc], pc := s.pc + 2 } := by
  simp [step_running hs, fetchDecodeExecute, State.fetchable, hpc, hd, unknownOpcode]

/-- Settles O31: after an instruction that completes, each of the two bytes at the new `pc` is the one `byteAfter` gives. -/
theorem selfModifiedCodeIsFetched : Obligations.SelfModifiedCodeIsFetched := by
  intro j s t op hwf h hs hpc hop
  obtain ⟨hf, rfl⟩ | ⟨_, _, -, rfl⟩ := exec_cases h
  · have hfetch : (s.completed j).fetchWord = op := by
      rw [hop, State.fetchWord, completed_mem_read hwf hf, completed_mem_read hwf hf, wordOfBytes]
    refine ⟨hfetch, fun i hd => step_of_decoded hs hpc (hfetch ▸ hd), fun hd => ?_⟩
    rw [step_of_unrecognised hs hpc (hfetch ▸ hd), hfetch]
  · cases hs

end Sys2Proof.Machine
end

section
/-!
PROOFS. The invariant (10_state.md section 4, 41_control_flow.md section 2). A step keeps it for three reasons: memory is only ever written
through `Memory.writeBytes`, which keeps the canonical form; an instruction executes at a fetchable `pc`, so every row of the `pc` table
stays at most 0x10FE; and the one entry a call makes live is that `pc`. The host operations change `mem` alone of what it speaks of.
-/

namespace Sys2Proof.Machine

section
variable {s t : State}

/-- The invariant speaks of memory, `pc` and the stack only. -/
theorem State.Inv.congr (h : s.Inv) (hmem : t.mem = s.mem) (hpc : t.pc = s.pc) (hstack : t.stack = s.stack)
    (hsp : t.sp = s.sp) : t.Inv where
  memory := hmem ▸ h.memory
  pcBound := hpc ▸ h.pcBound
  liveEntries := by rw [hstack, hsp]; exact h.liveEntries

/-! ### Completed instructions -/

theorem completed_mem_wf (i : Instr) (h : s.mem.wf = true) : (s.completed i).mem.wf = true := by
  cases i with
  | ldVxK x =>
    obtain ⟨_, _, _, hc⟩ := completed_ldVxK_frame x s
    rw [hc]
    exact h
  | loadRegs x =>
    obtain ⟨_, _, hc⟩ := completed_loadRegs_frame x s
    rw [hc]
    exact h
  | ldB | storeRegs => exact Memory.wf_writeBytes h _ _
  | _ => exact h

/-- A return that raises nothing pops a live entry. -/
theorem popped_le (h : s.Inv) (hf : faultOf .ret s = none) : (s.stack.getD (s.sp.val - 1) 0).toNat ≤ 0xFFE := by
  have hsp := sp_sub_one_val (faultOf_ret_eq_none.1 hf)
  have hle := h.liveEntries ⟨s.sp.val - 1, by omega⟩ (show s.sp.val - 1 < s.sp.val by omega)
  rwa [vector_get_eq_getD _ _ 0] at hle

theorem skipTarget_le {P : Nat} (hP : P ≤ 0xFFE) (taken : Option Bool) :
    (match taken with
      | some true => (P + 4) % 65536
      | _ => (P + 2) % 65536) ≤ 0x10FE := by
  split <;> omega

/-- "The largest value an instruction can produce" (R14) is `0xFFF + 0xFF`, of Bnnn. -/
theorem pcAfter_le {i : Instr} (h : s.Inv) (hf : faultOf i s = none) (hpc : s.pc.toNat ≤ 0xFFE) :
    pcAfter i s ≤ 0x10FE := by
  cases i with
  | jp nnn | call nnn => exact (Nat.le_of_lt_succ nnn.isLt).trans (by decide)
  | jpV0 nnn =>
    show (nnn.toNat + (s.readV 0).toNat) % 65536 ≤ 0x10FE
    omega
  | ret =>
    have hpop := popped_le h hf
    show ((s.stack.getD (s.sp.val - 1) 0).toNat + 2) % 65536 ≤ 0x10FE
    omega
  | ldVxK =>
    show (if ∀ k : Key, s.keypad.get k = false then s.pc.toNat else (s.pc.toNat + 2) % 65536) ≤ 0x10FE
    split <;> omega
  | seImm | sneImm | seReg | sneReg | skp | sknp => exact skipTarget_le hpc (some _)
  | _ => exact skipTarget_le hpc none

theorem completed_liveEntries (i : Instr) (h : s.Inv) (hf : faultOf i s = none) (hpc : s.pc.toNat ≤ 0xFFE) (j : Fin 16)
    (hj : j.val < (s.completed i).sp.val) : ((s.completed i).stack.get j).toNat ≤ 0xFFE := by
  cases i with
  | call nnn =>
    have hsp : j.val < (s.sp + 1).val := hj
    rw [sp_add_one_val (faultOf_call_eq_none.1 hf)] at hsp
    simp only [State.completed, Vector.get_eq_getElem, Vector.getElem_setIfInBounds]
    split
    · exact hpc
    · exact h.liveEntries j (by omega)
  | ret =>
    have hsp := sp_sub_one_val (faultOf_ret_eq_none.1 hf)
    exact h.liveEntries j (hj.trans (hsp ▸ Nat.lt_succ_self _))
  | ldVxK x =>
    obtain ⟨_, _, _, hc⟩ := completed_ldVxK_frame x s
    rw [hc] at hj ⊢
    exact h.liveEntries j hj
  | loadRegs x =>
    obtain ⟨_, _, hc⟩ := completed_loadRegs_frame x s
    rw [hc] at hj ⊢
    exact h.liveEntries j hj
  | _ => exact h.liveEntries j hj

theorem completed_inv {i : Instr} (h : s.Inv) (hf : faultOf i s = none) (hpc : s.pc.toNat ≤ 0xFFE) :
    (s.completed i).Inv where
  memory := completed_mem_wf i h.memory
  pcBound := completed_pc i s ▸ pcAfter_le h hf hpc
  liveEntries := completed_liveEntries i h hf hpc

/-! ### Steps and host operations -/

theorem step_inv (h : s.Inv) (hstep : step s = .next t) : t.Inv := by
  obtain ⟨_, _, -, rfl⟩ | ⟨-, -, rfl⟩ | ⟨-, hpc, -, rfl⟩ | ⟨-, hpc, i, -, hexec⟩ := step_cases hstep
  · exact h
  · exact h.congr rfl rfl rfl rfl
  · have hadd : (s.pc + 2).toNat = (s.pc.toNat + 2) % 65536 := BitVec.toNat_add _ _
    exact ⟨h.memory, show (s.pc + 2).toNat ≤ 0x10FE by omega, h.liveEntries⟩
  · obtain ⟨hf, rfl⟩ | ⟨_, _, -, rfl⟩ := exec_cases hexec
    · exact completed_inv h hf hpc
    · exact h.congr rfl rfl rfl rfl

theorem reset_inv : State.reset.Inv := ⟨Memory.wf_reset, by decide, fun _ hj => absurd hj (Nat.not_lt_zero _)⟩

theorem init_inv (s : State) : (init s).Inv := reset_inv.congr rfl rfl rfl rfl

theorem load_inv {bytes : List Byte} (h : s.Inv) (hload : load bytes s = .next t) : t.Inv := by
  obtain ⟨-, ht⟩ := whileRunning_next hload
  split at ht <;> cases ht
  exact ⟨Memory.wf_writeBytes h.memory _ _, h.pcBound, h.liveEntries⟩

theorem tick_inv (h : s.Inv) (htick : tick s = .next t) : t.Inv := by
  obtain ⟨-, ht⟩ := whileRunning_next htick
  cases ht
  exact h.congr rfl rfl rfl rfl

theorem setKey_inv {k : Nat} {b : Bool} (h : s.Inv) (hkey : setKey k b s = .next t) : t.Inv := by
  obtain ⟨-, ht⟩ := whileRunning_next hkey
  split at ht <;> cases ht
  exact h.congr rfl rfl rfl rfl

theorem clearDrawFlag_inv (h : s.Inv) (hclear : clearDrawFlag s = .next t) : t.Inv := by
  obtain ⟨-, ht⟩ := whileRunning_next hclear
  cases ht
  exact h.congr rfl rfl rfl rfl

end

/-! ### Sessions -/

section
variable {σ τ : Session}

/-- An operation of the session that completes is one of the core that does. -/
theorem Session.after_next {p : Phase} {r : Result} (h : Session.after p r = .next τ) : r = .next τ.core ∧ τ.phase = p := by
  cases r with
  | next s => cases h; exact ⟨rfl, rfl⟩
  | fault | refused => cases h

theorem Session.step_next (h : σ.step = .next τ) : Machine.step σ.core = .next τ.core ∧ τ.phase = .stepping := by
  unfold Session.step at h
  cases hp : σ.phase <;> rw [hp] at h
  · exact after_next h
  · cases h
  · exact after_next h

/-- A load in a session leaves the core as it is and remembers the error, or is a load of the core in the phase it finds. -/
theorem Session.load_next {bytes : List Byte} (h : σ.load bytes = .next τ) :
    σ.phase ≠ .stepping ∧
    (τ = { σ with phase := .loadFailed } ∨ (Machine.load bytes σ.core = .next τ.core ∧ τ.phase = σ.phase)) := by
  unfold Session.load at h
  cases hp : σ.phase <;> rw [hp] at h
  case stepping => cases h
  all_goals
    refine ⟨nofun, ?_⟩
    cases hl : Machine.load bytes σ.core with
    | next s => rw [hl] at h; cases h; exact .inr ⟨rfl, rfl⟩
    | fault f => cases f; rw [hl] at h; cases h; exact .inl rfl
    | refused => rw [hl] at h; cases h

theorem Session.apply_inv {op : Operation} (h : σ.core.Inv) (hop : σ.apply op = .next τ) : τ.core.Inv := by
  cases op with
  | init => cases hop; exact init_inv σ.core
  | load bytes =>
    obtain ⟨-, rfl | ⟨hl, -⟩⟩ := Session.load_next hop
    · exact h
    · exact load_inv h hl
  | step => exact step_inv h (Session.step_next hop).1
  | tick => exact tick_inv h (after_next hop).1
  | setKey k b => exact setKey_inv h (after_next hop).1
  | clearDrawFlag => exact clearDrawFlag_inv h (after_next hop).1

/-- A run that completes completed its first operation and the run of the others. -/
theorem Session.run_cons_next {op : Operation} {ops : List Operation} (h : Session.run (op :: ops) σ = .next τ) :
    ∃ υ, σ.apply op = .next υ ∧ Session.run ops υ = .next τ := by
  rw [Session.run] at h
  cases hop : σ.apply op with
  | next υ => rw [hop] at h; exact ⟨υ, rfl, h⟩
  | fault | refused => rw [hop] at h; cases h

/-- What every operation out of `allowed` keeps, every run of such operations keeps. -/
theorem Session.run_induction {allowed : Operation → Prop} {P : Session → Prop}
    (keeps : ∀ {op σ τ}, allowed op → P σ → Session.apply op σ = .next τ → P τ) {ops : List Operation}
    (hops : ∀ op ∈ ops, allowed op) (hσ : P σ) (h : Session.run ops σ = .next τ) : P τ := by
  induction ops generalizing σ with
  | nil => cases h; exact hσ
  | cons op ops ih =>
    obtain ⟨υ, hop, hrun⟩ := Session.run_cons_next h
    rw [List.forall_mem_cons] at hops
    exact ih hops.2 (keeps hops.1 hσ hop) hrun

end

/-- Settles O50: nothing is listed, `pc` is 0x200, no entry is live. -/
theorem resetMeetsTheInvariant : Obligations.ResetMeetsTheInvariant := reset_inv

/-- Settles O51: by what a `Step` can do and the three clauses for a completed instruction. -/
theorem everyStepKeepsTheInvariant : Obligations.EveryStepKeepsTheInvariant := fun _ _ => step_inv

/-- Settles O52: by induction on the sequence, every operation keeping the invariant. -/
theorem everyOperationSequenceKeepsTheInvariant : Obligations.EveryOperationSequenceKeepsTheInvariant :=
  fun _ _ _ => Session.run_induction (allowed := fun _ => True) (P := fun σ => σ.core.Inv)
    (fun _ => Session.apply_inv) fun _ _ => trivial

end Sys2Proof.Machine
end

section
/-!
PROOFS. What no instruction reads (10_state.md sections 5, 6 and 12). Replacing a piece of state that an instruction neither reads nor
writes commutes with the instruction: the keypad, the delay timer, the unread parts, the stack. A projection that erases such a piece is
therefore respected by every instruction and, as it keeps what fetch and decode read, by every step: `Erasure`. Two states with the
same projection then step to states with the same projection.
-/

namespace Sys2Proof.Machine

/-! ### Instructions on two related states -/

/-- An instruction on two states that it faults alike in, and completes alike in, as far as `f` and `g` tell. -/
theorem exec_map_congr {i : Instr} {s₁ s₂ : State} {f g : State → State} (hfault : faultOf i s₁ = faultOf i s₂)
    (hraise : ∀ status, f { s₁ with status := status } = g { s₂ with status := status })
    (hcompleted : faultOf i s₂ = none → f (s₁.completed i) = g (s₂.completed i)) :
    Result.map f (exec i s₁) = Result.map g (exec i s₂) := by
  rw [exec_eq_faultOr, exec_eq_faultOr, hfault]
  cases hf : faultOf i s₂ with
  | none => exact congrArg Host.Outcome.next (hcompleted hf)
  | some fault => exact congrArg Host.Outcome.next (hraise _)

/-- A fault depends on registers, `I`, `pc` and `sp` only. -/
theorem faultOf_congr {i : Instr} {s t : State} (hV : s.V = t.V) (hidx : s.idx = t.idx) (hpc : s.pc = t.pc)
    (hsp : s.sp = t.sp) : faultOf i s = faultOf i t := by
  cases s; cases t; cases hV; cases hidx; cases hpc; cases hsp
  cases i <;> rfl

theorem Result.map_id (r : Result) : Result.map id r = r := by cases r <;> rfl

/-- A replacement that an instruction does not see is carried to the state after it. -/
theorem exec_comm {i : Instr} {s : State} {f : State → State} (hfault : faultOf i (f s) = faultOf i s)
    (hraise : ∀ status, { f s with status := status } = f { s with status := status })
    (hcompleted : (f s).completed i = f (s.completed i)) : exec i (f s) = Result.map f (exec i s) :=
  (Result.map_id _).symm.trans (exec_map_congr hfault hraise fun _ => hcompleted)

/-- Fx0A carries along whatever it does not see: it reads the keypad and the free values. -/
theorem completed_ldVxK_comm {x : Reg} {s : State} {f : State → State} (hkeys : (f s).pressedKeys = s.pressedKeys)
    (hfree : (f s).freeIndex = s.freeIndex)
    (hwrite : ∀ v, ({ f s with freeIndex := s.freeIndex + 1 }.writeV x v).advance =
      f ({ s with freeIndex := s.freeIndex + 1 }.writeV x v).advance) :
    (f s).completed (.ldVxK x) = f (s.completed (.ldVxK x)) := by
  rw [completed_ldVxK_eq, completed_ldVxK_eq, execLdVxK, execLdVxK, hkeys, hfree]
  cases s.pressedKeys with
  | nil => rfl
  | cons k rest => exact hwrite _

/-- Fx65 carries along whatever it does not see: it reads registers, `I` and memory. -/
theorem completed_loadRegs_comm {x : Reg} {s : State} {f : State → State} (hregs : (f s).loadedRegs x = s.loadedRegs x)
    (hload : ∀ V, { (f s).advance with V := V, idx := (f s).idx + BitVec.ofNat 16 (x.val + 1) } =
      f { s.advance with V := V, idx := s.idx + BitVec.ofNat 16 (x.val + 1) }) :
    (f s).completed (.loadRegs x) = f (s.completed (.loadRegs x)) := by
  simp only [State.completed, hregs]
  exact hload _

/-! ### The keypad and the delay timer -/

theorem exec_withKeypad (i : Instr) (s : State) (keys : Vector Bool 16) :
    match i with
    | .skp _ | .sknp _ | .ldVxK _ => True
    | _ => exec i { s with keypad := keys } = Result.map (fun t => { t with keypad := keys }) (exec i s) := by
  cases i with
  | skp | sknp | ldVxK => trivial
  | _ => exact exec_comm (f := fun t => { t with keypad := keys }) (faultOf_congr rfl rfl rfl rfl) (fun _ => rfl) rfl

theorem exec_withDelayTimer (i : Instr) (s : State) (v : Byte) :
    match i with
    | .ldVxDT _ => True
    | .ldDTVx _ => exec i { s with delayTimer := v } = exec i s
    | _ => exec i { s with delayTimer := v } = Result.map (fun t => { t with delayTimer := v }) (exec i s) := by
  cases i with
  | ldVxDT => trivial
  | ldDTVx => rfl
  | ldVxK =>
    exact exec_comm (f := fun t => { t with delayTimer := v }) (faultOf_congr rfl rfl rfl rfl) (fun _ => rfl)
      (completed_ldVxK_comm (f := fun t => { t with delayTimer := v }) rfl rfl fun _ => rfl)
  | _ => exact exec_comm (f := fun t => { t with delayTimer := v }) (faultOf_congr rfl rfl rfl rfl) (fun _ => rfl) rfl

/-- Settles O45: no step writes the keypad, and a replaced keypad or delay timer is carried along by all but its readers. -/
theorem keypadAndDelayTimerAreReadOnlyByTheirInstructions : Obligations.KeypadAndDelayTimerAreReadOnlyByTheirInstructions :=
  ⟨fun _ _ => step_keypad, exec_withKeypad, exec_withDelayTimer⟩

/-! ### Projections that every step respects -/

/-- A projection that keeps what fetch and decode read, and erases only what no instruction sees. -/
structure Erasure (π : State → State) : Prop where
  status : ∀ s, (π s).status = s.status
  pc : ∀ s, (π s).pc = s.pc
  mem : ∀ s, (π s).mem = s.mem
  idem : ∀ s, π (π s) = π s
  raised : ∀ s status, π { π s with status := status } = π { s with status := status }
  logged : ∀ s records pc, π { π s with diagLog := (π s).diagLog ++ records, pc := pc } =
    π { s with diagLog := s.diagLog ++ records, pc := pc }
  fault : ∀ i s, faultOf i (π s) = faultOf i s
  completed : ∀ i s, faultOf i s = none → π ((π s).completed i) = π (s.completed i)

section
variable {π : State → State} (h : Erasure π)
include h

theorem Erasure.exec (i : Instr) (s : State) :
    Result.map π (Machine.exec i (π s)) = Result.map π (Machine.exec i s) :=
  exec_map_congr (h.fault i s) (h.raised s) (h.completed i s)

theorem Erasure.fetchDecodeExecute (s : State) :
    Result.map π (Machine.fetchDecodeExecute Machine.exec (π s)) =
      Result.map π (Machine.fetchDecodeExecute Machine.exec s) := by
  have hword : (π s).fetchWord = s.fetchWord := by rw [State.fetchWord, State.fetchWord, h.mem, h.pc]
  have hfetchable : (π s).fetchable = s.fetchable := by rw [State.fetchable, State.fetchable, h.pc]
  rw [Machine.fetchDecodeExecute, Machine.fetchDecodeExecute, hfetchable, hword, h.pc]
  split
  · cases decodeWord s.fetchWord with
    | some i => exact h.exec i s
    | none =>
      refine congrArg Host.Outcome.next ?_
      rw [h.pc]
      exact h.logged s _ _
  · exact congrArg Host.Outcome.next (h.raised s _)

theorem Erasure.step (s : State) : Result.map π (Machine.step (π s)) = Result.map π (Machine.step s) := by
  rw [Machine.step, Machine.step, h.status]
  cases s.status with
  | notStarted => rfl
  | faulted => exact congrArg Host.Outcome.next (h.idem s)
  | running => exact h.fetchDecodeExecute s

/-- What is erased does not flow into what is kept. -/
theorem Erasure.step_congr {s₁ s₂ : State} (hs : π s₁ = π s₂) :
    Result.map π (Machine.step s₁) = Result.map π (Machine.step s₂) := by
  rw [← h.step s₁, hs, h.step]

end

/-! ### The draw flag, the sound timer and the diagnostic log -/

/-- The state without those of the three unread parts that are asked for. -/
def State.erase (draw sound log : Bool) (s : State) : State :=
  { s with
    drawFlag := if draw then false else s.drawFlag
    soundTimer := if sound then 0 else s.soundTimer
    diagLog := if log then [] else s.diagLog }

section
variable (draw sound log : Bool)

theorem State.erase_erase (s : State) : (s.erase draw sound log).erase draw sound log = s.erase draw sound log := by
  cases draw <;> cases sound <;> cases log <;> rfl

variable {draw sound log} in
/-- A state that carries the erasure along is after it what the other is. -/
theorem State.erase_of_comm {s t : State} (h : t = s.erase draw sound log) :
    t.erase draw sound log = s.erase draw sound log := by
  rw [h, State.erase_erase]

/-- The instructions that write an unread part write a value that does not depend on it. -/
theorem completed_erase (i : Instr) (s : State) :
    ((s.erase draw sound log).completed i).erase draw sound log = (s.completed i).erase draw sound log := by
  cases i with
  | cls | drw | ldSTVx => cases draw <;> cases sound <;> cases log <;> rfl
  | ldVxK x =>
    exact State.erase_of_comm (completed_ldVxK_comm (f := State.erase draw sound log) rfl rfl fun _ => rfl)
  | loadRegs x => exact State.erase_of_comm (completed_loadRegs_comm (f := State.erase draw sound log) rfl fun _ => rfl)
  | _ => exact State.erase_of_comm rfl

theorem erasure_erase : Erasure (State.erase draw sound log) where
  status _ := rfl
  pc _ := rfl
  mem _ := rfl
  idem := State.erase_erase draw sound log
  raised s status := State.erase_erase draw sound log { s with status := status }
  logged s records pc := by cases draw <;> cases sound <;> cases log <;> rfl
  fault _ _ := faultOf_congr rfl rfl rfl rfl
  completed i s _ := completed_erase draw sound log i s

end

/-- Settles O46: each of the four projections erases one or all of the three parts. -/
theorem unreadStateNeverFlowsIntoARun : Obligations.UnreadStateNeverFlowsIntoARun := fun _ _ =>
  ⟨(erasure_erase true false false).step_congr, (erasure_erase false true false).step_congr,
    (erasure_erase false false true).step_congr, (erasure_erase true true true).step_congr⟩

/-! ### Stack entries that are not live -/

/-- Completed from a state with another stack of the same live entries, an instruction gives a state that differs at most in the stack, and
not in a live entry: a call writes the entry it makes live, a return reads a live one, and no other instruction reads or writes any. -/
theorem completed_withStack {i : Instr} {s : State} {stack : Vector Word 16} (hf : faultOf i s = none)
    (hlive : ∀ j : Fin 16, j.val < s.sp.val → stack.get j = s.stack.get j) :
    ∃ stack', State.completed { s with stack := stack } i = { s.completed i with stack := stack' } ∧
      ∀ j : Fin 16, j.val < (s.completed i).sp.val → stack'.get j = (s.completed i).stack.get j := by
  cases i with
  | ret =>
    have hsp := sp_sub_one_val (faultOf_ret_eq_none.1 hf)
    have hpop : stack.getD (s.sp.val - 1) 0 = s.stack.getD (s.sp.val - 1) 0 := by
      have htop := hlive ⟨s.sp.val - 1, by omega⟩ (show s.sp.val - 1 < s.sp.val by omega)
      rwa [vector_get_eq_getD _ _ 0, vector_get_eq_getD _ _ 0] at htop
    refine ⟨stack, ?_, fun j hj => hlive j (hj.trans (hsp ▸ Nat.lt_succ_self _))⟩
    simp only [State.completed, hpop]
  | call nnn =>
    refine ⟨_, rfl, fun j hj => ?_⟩
    have hsp : j.val < (s.sp + 1).val := hj
    rw [sp_add_one_val (faultOf_call_eq_none.1 hf)] at hsp
    have hold (hne : s.sp.val ≠ j.val) : stack.get j = s.stack.get j := hlive j (by omega)
    simp only [Vector.get_eq_getElem] at hold
    simp only [State.completed, Vector.get_eq_getElem, Vector.getElem_setIfInBounds]
    exact ite_congr rfl (fun _ => rfl) hold
  | ldVxK x =>
    refine ⟨stack, completed_ldVxK_comm (f := fun t => { t with stack := stack }) rfl rfl fun _ => rfl, ?_⟩
    obtain ⟨_, _, _, hc⟩ := completed_ldVxK_frame x s
    rw [hc]
    exact hlive
  | loadRegs x =>
    refine ⟨stack, completed_loadRegs_comm (f := fun t => { t with stack := stack }) rfl fun _ => rfl, ?_⟩
    rw [completed_sp (.loadRegs x) s, completed_stack (.loadRegs x) s]
    exact hlive
  | _ => exact ⟨stack, rfl, hlive⟩

/-- What the projection is to the laws above: another stack with the same live entries. -/
theorem withoutStale_eq_withStack (s : State) : ∃ stack, s.withoutStale = { s with stack := stack } ∧
    ∀ j : Fin 16, j.val < s.sp.val → stack.get j = s.stack.get j := ⟨_, rfl, s.withoutStale_live⟩

theorem erasure_withoutStale : Erasure State.withoutStale where
  status := State.withoutStale_status
  pc := State.withoutStale_pc
  mem := State.withoutStale_mem
  idem s := s.withoutStale_congr _ s.withoutStale_live
  raised s status := by
    obtain ⟨stack, hs, hlive⟩ := withoutStale_eq_withStack s
    rw [hs]
    exact State.withoutStale_congr { s with status := status } stack hlive
  logged s records pc := by
    obtain ⟨stack, hs, hlive⟩ := withoutStale_eq_withStack s
    rw [hs]
    exact State.withoutStale_congr { s with diagLog := s.diagLog ++ records, pc := pc } stack hlive
  fault _ s := faultOf_congr s.withoutStale_V s.withoutStale_idx s.withoutStale_pc s.withoutStale_sp
  completed i s hf := by
    obtain ⟨stack, hs, hlive⟩ := withoutStale_eq_withStack s
    obtain ⟨stack', hc, hlive'⟩ := completed_withStack hf hlive
    rw [hs, hc]
    exact State.withoutStale_congr _ stack' hlive'

/-- Settles O47: no step lets an entry that is not live into what is live. -/
theorem staleStackEntriesNeverFlowIntoARun : Obligations.StaleStackEntriesNeverFlowIntoARun := fun _ _ =>
  erasure_withoutStale.step_congr

end Sys2Proof.Machine
end

section
/-!
PROOFS. Arithmetic, logic, random, index arithmetic and timers (42_alu.md sections 1 to 4, 43_index_memory.md section 2,
45_keypad_timer_instr.md section 4). Which registers are written, and in which order, is the law of the shared write; what is left for
each instruction is its result and its flag as numbers.
-/

namespace Sys2Proof.Machine

/-! ### Results and flags as numbers -/

section
variable (a b : Byte)

theorem addResult_toNat : (addResult a b).toNat = (a.toNat + b.toNat) % 256 := BitVec.toNat_ofNat _ _

/-- Adding 256 before the subtraction keeps it from truncating, and is gone modulo 256. -/
theorem subResult_toNat : (subResult a b).toNat = ((a.toNat - b.toNat : Int) % 256).toNat := by
  rw [subResult, BitVec.toNat_ofNat]
  omega

theorem shrResult_toNat : (shrResult a).toNat = a.toNat / 2 := by
  rw [shrResult, BitVec.toNat_ushiftRight, Nat.shiftRight_one]

theorem shlResult_toNat : (shlResult a).toNat = a.toNat * 2 % 256 := by
  rw [shlResult, BitVec.toNat_shiftLeft, Nat.shiftLeft_eq]

theorem shrFlag_eq : shrFlag a = decide (a.toNat % 2 = 1) := Nat.testBit_zero _

theorem shlFlag_eq : shlFlag a = decide (128 ≤ a.toNat) :=
  (BitVec.msb_eq_getLsbD_last a).symm.trans (BitVec.msb_eq_decide a)

end

/-! ### Arithmetic and logic -/

section
variable (s : State)

/-- The law of the shared result-and-flag write, for a result and a flag given as numbers. -/
theorem writesRegAndFlag_of_eq {x : Reg} {result : Byte} {v : Nat} {flag flag' : Bool} (hv : result.toNat = v)
    (hflag : flag' = flag) : WritesRegAndFlag (.next (s.writeResultFlag x result flag')) s x v flag := by
  subst hv hflag
  exact writeResultFlag_writesRegAndFlag s x result flag'

end

/-- Settles O21: the four instructions are one register write, of the sum or of the bitwise combination. -/
theorem addImmediateAndLogicWriteNoFlag : Obligations.AddImmediateAndLogicWriteNoFlag := fun x _ kk s =>
  ⟨⟨_, writeAndAdvance_writesReg s x _, addResult_toNat _ kk⟩, ⟨_, writeAndAdvance_writesReg s x _, fun _ _ => BitVec.getLsbD_or⟩,
    ⟨_, writeAndAdvance_writesReg s x _, fun _ _ => BitVec.getLsbD_and⟩,
    ⟨_, writeAndAdvance_writesReg s x _, fun _ _ => BitVec.getLsbD_xor⟩⟩

/-- Settles O22: the result is the sum, the flag its carry. -/
theorem addLeavesSumAndCarry : Obligations.AddLeavesSumAndCarry := fun _ _ s =>
  writesRegAndFlag_of_eq s (addResult_toNat _ _) rfl

/-- Settles O23: the result is the difference, the flag the absence of a borrow, in either order of the operands. -/
theorem subtractionsLeaveDifferenceAndNotBorrow : Obligations.SubtractionsLeaveDifferenceAndNotBorrow := fun _ _ s =>
  ⟨writesRegAndFlag_of_eq s (subResult_toNat _ _) rfl, writesRegAndFlag_of_eq s (subResult_toNat _ _) rfl⟩

/-- Settles O24: the result is the shifted `V[x]`, the flag the bit moved out. -/
theorem shiftsMoveOneBitIntoTheFlag : Obligations.ShiftsMoveOneBitIntoTheFlag := fun _ _ s =>
  ⟨writesRegAndFlag_of_eq s (shrResult_toNat _) (shrFlag_eq _), writesRegAndFlag_of_eq s (shlResult_toNat _) (shlFlag_eq _)⟩

/-- Cxkk writes the masked free byte, takes the next free value and advances, whatever the state (R92, R93). -/
theorem exec_rnd (x : Reg) (kk : Byte) (s : State) : exec (.rnd x kk) s =
    .next ({ s with freeIndex := s.freeIndex + 1 }.writeV x (Config.freeByte s.freeIndex &&& kk)).advance := rfl

/-- Settles O25: by the equation for Cxkk; a bit outside the mask is a conjunction with 0. -/
theorem randomIsADrawnByteUnderTheMask : Obligations.RandomIsADrawnByteUnderTheMask := by
  refine fun x kk s => ⟨decodeWord_patternValue (i := .rnd x kk) rfl, _, exec_rnd x kk s, rfl, ?_, fun b _ hb => ?_, fun r hr => ?_⟩
  · exact State.readV_writeV_same _ x _
  · rw [State.readV_advance, State.readV_writeV_same, BitVec.getLsbD_and, hb, Bool.and_false]
  · exact State.readV_writeV_of_ne _ _ hr

/-! ### Index arithmetic -/

theorem readV16_toNat (s : State) (r : Reg) : (s.readV16 r).toNat = (s.readV r).toNat :=
  BitVec.toNat_setWidth_of_le (by decide)

theorem glyphAddress_toNat (v : Byte) : (glyphAddress v).toNat = 0x050 + 5 * v.toNat := by
  rw [glyphAddress, BitVec.toNat_ofNat]
  exact Nat.mod_eq_of_lt (by simp only [Config.fontBase]; omega)

theorem add_readV16_toNat (w : Word) (s : State) (r : Reg) :
    (w + s.readV16 r).toNat = (w.toNat + (s.readV r).toNat) % 65536 := by
  rw [BitVec.toNat_add, readV16_toNat]

/-- Settles O27: both instructions write `I` alone, the unmasked sum and the unmasked glyph address. -/
theorem indexArithmeticIsUnmasked : Obligations.IndexArithmeticIsUnmasked := fun x s =>
  ⟨⟨_, rfl, rfl, add_readV16_toNat s.idx s x⟩, ⟨_, rfl, rfl, glyphAddress_toNat (s.readV x)⟩⟩

/-! ### Timers -/

/-- Settles O37: Fx07 is one register write, Fx15 and Fx18 one timer write. -/
theorem timerInstructionsMoveTheTimers : Obligations.TimerInstructionsMoveTheTimers := fun x s =>
  ⟨writeAndAdvance_writesReg s x s.delayTimer, ⟨_, rfl, rfl⟩, ⟨_, rfl, rfl⟩⟩

end Sys2Proof.Machine
end

section
/-!
PROOFS. Memory (20_memory.md sections 1, 2 and 7, 43_index_memory.md section 3). A transfer whose footprint lies inside `mem` completes, and
every byte and register after it is given by the laws of the run of writes and of the loaded registers; outside it raises. A memory in
canonical form lists an address exactly when its byte differs from the reset contents, so what it reads determines the list.
-/

namespace Sys2Proof.Machine

/-! ### The transfers of Fx33, Fx55 and Fx65 -/

section
variable {s : State} {x : Reg}

/-- `I` after a transfer of `x + 1` bytes does not wrap, because the last byte is inside `mem`. -/
theorem idx_add_toNat (h : s.idx.toNat + x.val ≤ 0xFFF) :
    (s.idx + BitVec.ofNat 16 (x.val + 1)).toNat = s.idx.toNat + x.val + 1 := by
  rw [BitVec.toNat_add, BitVec.toNat_ofNat]
  omega

theorem footprint_range (h : s.idx.toNat + x.val ≤ 0xFFF) : x.val + 1 = 0 ∨ s.idx.toNat + (x.val + 1) ≤ 0x1000 :=
  .inr (Nat.succ_le_succ h)

theorem not_footprint_range (h : s.idx.toNat + x.val > 0xFFF) : ¬ (x.val + 1 = 0 ∨ s.idx.toNat + (x.val + 1) ≤ 0x1000) := by
  omega

/-- A number no larger than a byte's value is not narrowed by the width of a byte. -/
theorem digit_toNat {v : Byte} {d : Nat} (h : d ≤ v.toNat) : (BitVec.ofNat 8 d).toNat = d :=
  Nat.mod_eq_of_lt (h.trans_lt v.isLt)

end

/-- Settles O28: the bytes stored are the digits `byteAfter` gives, and every other byte reads as before. -/
theorem bcdStoresThreeDigits : Obligations.BcdStoresThreeDigits := by
  refine fun x s hwf => ⟨fun hin => ?_, fun hout => exec_of_fault (if_neg (by simp only [dataFootprint]; omega))⟩
  have hf : faultOf (.ldB x) s = none := if_pos (.inr (Nat.succ_le_succ hin))
  have hread (a : Nat) := completed_mem_read hwf hf a
  refine ⟨_, exec_of_no_fault hf, rfl, ⟨(s.readV x).toNat / 100, (s.readV x).toNat / 10 % 10, (s.readV x).toNat % 10,
    by omega, by omega, by omega, by omega, ?_, ?_, ?_⟩, fun a ha => ?_⟩
  · rw [hread]
    simp only [byteAfter, if_true]
    exact digit_toNat (Nat.div_le_self _ _)
  · rw [hread]
    simp only [byteAfter, Nat.add_eq_left, one_ne_zero, if_true, if_false]
    exact digit_toNat (v := s.readV x) (by omega)
  · rw [hread]
    simp only [byteAfter, Nat.add_eq_left, Nat.add_left_cancel_iff, OfNat.ofNat_ne_zero, OfNat.ofNat_ne_one, if_true, if_false]
    exact digit_toNat (Nat.mod_le _ _)
  · exact (hread a).trans (byteAfter_of_not_storesTo (decide_eq_false ha))

/-- Settles O29: the bytes stored are the registers, every other byte reads as before, and `I` does not wrap. -/
theorem storeCopiesRegistersToMemory : Obligations.StoreCopiesRegistersToMemory := by
  refine fun x s hwf => ⟨fun hin => ?_, fun hout => exec_of_fault (if_neg (not_footprint_range hout))⟩
  have hf : faultOf (.storeRegs x) s = none := if_pos (footprint_range hin)
  refine ⟨_, exec_of_no_fault hf, rfl, idx_add_toNat hin, fun k hk => ?_, fun a ha => ?_⟩
  · rw [completed_mem_read hwf hf, byteAfter, if_pos ⟨Nat.le_add_right _ _, Nat.add_le_add_left hk _⟩, Nat.add_sub_cancel_left]
    exact (vector_get_eq_getD s.V k 0).symm
  · exact (completed_mem_read hwf hf a).trans (byteAfter_of_not_storesTo (decide_eq_false ha))

/-- Settles O30: by the law of the loaded registers; `I` does not wrap. -/
theorem loadCopiesMemoryToRegisters : Obligations.LoadCopiesMemoryToRegisters := by
  refine fun x s => ⟨fun hin => ?_, fun hout => exec_of_fault (if_neg (not_footprint_range hout))⟩
  have hf : faultOf (.loadRegs x) s = none := if_pos (footprint_range hin)
  exact ⟨_, exec_of_no_fault hf, rfl, idx_add_toNat hin, fun k hk => (s.loadedRegs_get x k).trans (if_pos hk),
    fun k hk => (s.loadedRegs_get x k).trans (if_neg hk.not_ge)⟩

/-! ### A word placed at `pc` -/

section
variable {s : State} (op : Word)

theorem placeWord_mem_read (hwf : s.mem.wf = true) (hpc : s.pc.toNat ≤ 0xFFE) :
    (s.placeWord op).mem.read s.pc.toNat = (bytesOfWord op).1 ∧
    (s.placeWord op).mem.read (s.pc.toNat + 1) = (bytesOfWord op).2 := by
  have hfits : s.pc.toNat + [(bytesOfWord op).1, (bytesOfWord op).2].length ≤ Config.memSize := Nat.add_le_add_right hpc 2
  exact ⟨Memory.read_writeBytes_inside hwf hfits 0 Nat.two_pos, Memory.read_writeBytes_inside hwf hfits 1 Nat.one_lt_two⟩

theorem placeWord_fetchWord (hwf : s.mem.wf = true) (hpc : s.pc.toNat ≤ 0xFFE) : (s.placeWord op).fetchWord = op := by
  obtain ⟨hhi, hlo⟩ := placeWord_mem_read op hwf hpc
  rw [State.fetchWord, State.placeWord_pc, hhi, hlo, wordOfBytes_bytesOfWord]

theorem bytesOfWord_eq_ofNat : bytesOfWord op = (BitVec.ofNat 8 (op.toNat / 256), BitVec.ofNat 8 (op.toNat % 256)) := by
  refine Prod.ext (BitVec.eq_of_toNat_eq ?_) (BitVec.eq_of_toNat_eq ?_)
  · simp only [bytesOfWord, BitVec.extractLsb'_toNat, Nat.shiftRight_eq_div_pow, BitVec.toNat_ofNat]
  · simp only [bytesOfWord, BitVec.extractLsb'_toNat, Nat.shiftRight_zero, BitVec.toNat_ofNat, Nat.mod_mod]

end

/-- Settles O13: the two bytes placed read back, so the word fetched is the word placed. -/
theorem aWordPlacedAtPcIsTheNextInstruction : Obligations.AWordPlacedAtPcIsTheNextInstruction := by
  intro s op i hwf hs hpc hd
  obtain ⟨hhi, hlo⟩ := placeWord_mem_read op hwf hpc
  rw [bytesOfWord_eq_ofNat] at hhi hlo
  exact ⟨hhi, hlo, step_of_decoded hs hpc ((placeWord_fetchWord op hwf hpc).symm ▸ hd)⟩

/-! ### Canonical memories -/

section
variable {m m₁ m₂ : Memory} {lo a : Nat} {v : Byte}

theorem Memory.lookup_cons_self (a : Nat) (v : Byte) (rest : Memory) : Memory.lookup a ((a, v) :: rest) = some v := if_pos rfl

theorem Memory.lookup_cons_of_ne {b : Nat} (rest : Memory) (h : b ≠ a) :
    Memory.lookup a ((b, v) :: rest) = Memory.lookup a rest := if_neg h

theorem Memory.wfFrom_cons_iff {rest : Memory} : Memory.wfFrom lo ((a, v) :: rest) = true ↔
    lo ≤ a ∧ a < Config.memSize ∧ v ≠ unlistedByte a ∧ Memory.wfFrom (a + 1) rest = true := by
  simp only [Memory.wfFrom, Bool.and_eq_true, decide_eq_true_eq, and_assoc]

/-- A listed byte differs from the reset contents. -/
theorem Memory.ne_unlistedByte_of_lookup (h : Memory.wfFrom lo m = true) (hl : Memory.lookup a m = some v) :
    v ≠ unlistedByte a := by
  induction m generalizing lo with
  | nil => cases hl
  | cons c rest ih =>
    obtain ⟨b, w⟩ := c
    obtain ⟨-, -, hw, hrest⟩ := Memory.wfFrom_cons_iff.1 h
    by_cases hb : b = a
    · subst hb
      cases (Memory.lookup_cons_self b w rest).symm.trans hl
      exact hw
    · exact ih hrest ((Memory.lookup_cons_of_ne rest hb).symm.trans hl)

/-- So in canonical form a lookup is determined by the read. -/
theorem Memory.lookup_eq_of_read_eq (h₁ : m₁.wf = true) (h₂ : m₂.wf = true) (h : m₁.read a = m₂.read a) :
    Memory.lookup a m₁ = Memory.lookup a m₂ := by
  unfold Memory.read at h
  cases hl₁ : Memory.lookup a m₁ with
  | none =>
    cases hl₂ : Memory.lookup a m₂ with
    | none => rfl
    | some w =>
      rw [hl₁, hl₂] at h
      exact absurd h.symm (Memory.ne_unlistedByte_of_lookup h₂ hl₂)
  | some v =>
    cases hl₂ : Memory.lookup a m₂ with
    | none =>
      rw [hl₁, hl₂] at h
      exact absurd h (Memory.ne_unlistedByte_of_lookup h₁ hl₁)
    | some w =>
      rw [hl₁, hl₂] at h
      exact congrArg some h

/-- The first address of a canonical list is the least one it lists. -/
theorem Memory.head_le_of_lookup {b : Nat} {w : Byte} {rest : Memory} (h : Memory.wfFrom lo ((b, w) :: rest) = true)
    (hl : Memory.lookup a ((b, w) :: rest) = some v) : b ≤ a := by
  by_contra hlt
  have hfrom := Memory.wfFrom_cons_iff.2 ⟨le_refl b, (Memory.wfFrom_cons_iff.1 h).2⟩
  cases hl.symm.trans (Memory.lookup_of_lt hfrom (not_le.1 hlt))

/-- Two canonical lists that find the same begin with the same entry, and their rests find the same. -/
theorem Memory.eq_of_lookup_eq (h₁ : Memory.wfFrom lo m₁ = true) (h₂ : Memory.wfFrom lo m₂ = true)
    (h : ∀ a, Memory.lookup a m₁ = Memory.lookup a m₂) : m₁ = m₂ := by
  induction m₁ generalizing lo m₂ with
  | nil =>
    cases m₂ with
    | nil => rfl
    | cons c₂ rest₂ => cases (h c₂.1).trans (Memory.lookup_cons_self c₂.1 c₂.2 rest₂)
  | cons c₁ rest₁ ih =>
    obtain ⟨a, v⟩ := c₁
    have ha := (h a).symm.trans (Memory.lookup_cons_self a v rest₁)
    cases m₂ with
    | nil => cases ha
    | cons c₂ rest₂ =>
      obtain ⟨b, w⟩ := c₂
      have hb := (h b).trans (Memory.lookup_cons_self b w rest₂)
      obtain rfl := le_antisymm (Memory.head_le_of_lookup h₁ hb) (Memory.head_le_of_lookup h₂ ha)
      obtain rfl : w = v := Option.some.inj ((Memory.lookup_cons_self a w rest₂).symm.trans ha)
      obtain ⟨-, -, -, hrest₁⟩ := Memory.wfFrom_cons_iff.1 h₁
      obtain ⟨-, -, -, hrest₂⟩ := Memory.wfFrom_cons_iff.1 h₂
      refine congrArg _ (ih hrest₁ hrest₂ fun d => ?_)
      by_cases hd : a = d
      · rw [Memory.lookup_of_lt hrest₁ (hd ▸ Nat.lt_succ_self a), Memory.lookup_of_lt hrest₂ (hd ▸ Nat.lt_succ_self a)]
      · rw [← Memory.lookup_cons_of_ne rest₁ hd, h d, Memory.lookup_cons_of_ne rest₂ hd]

end

/-- Settles O53: equal reads give equal lookups, and equal lookups equal lists. -/
theorem canonicalMemoriesAreEqualWhenTheyReadEqual : Obligations.CanonicalMemoriesAreEqualWhenTheyReadEqual :=
  fun _ _ h₁ h₂ h => Memory.eq_of_lookup_eq h₁ h₂ fun a => Memory.lookup_eq_of_read_eq h₁ h₂ (h a)

end Sys2Proof.Machine
end

section
/-!
PROOFS. The step, call and return, the quiescent loop (40_step_cycle.md sections 1 to 3, 41_control_flow.md section 2,
70_reset_and_hazards.md section 4) and the key instructions (45_keypad_timer_instr.md sections 2 and 3). A call and a return are the
completed states of their instructions while the stack has room, and their faults otherwise; on a stack with room neither `sp + 1` nor
`sp - 1` wraps.
-/

namespace Sys2Proof.Machine

/-! ### The step -/

/-- Settles O7: the two bytes at `pc` are the word fetched. -/
theorem stepRunsTheDecodedInstruction : Obligations.StepRunsTheDecodedInstruction := fun _ _ => step_of_decoded

/-- From a fetchable `pc` the next word is no more than two bytes further, without wrapping. -/
theorem pc_add_two_toNat {s : State} (hpc : s.pc.toNat ≤ 0xFFE) : (s.pc + 2).toNat = s.pc.toNat + 2 :=
  (BitVec.toNat_add _ _).trans (Nat.mod_eq_of_lt (show s.pc.toNat + 2 < 65536 by omega))

/-- Settles O8: by the equation for a step on an unrecognised word; 0x0000 fails both comparisons of family 0. -/
theorem unrecognisedWordIsLoggedAndSkipped : Obligations.UnrecognisedWordIsLoggedAndSkipped := by
  refine ⟨fun s op hs hpc hop hd => ?_, by decide⟩
  subst hop
  exact ⟨_, step_of_unrecognised hs hpc hd, rfl, pc_add_two_toNat hpc⟩

theorem step_faulted {s : State} {cause : FaultCause} {info : Nat} (h : s.status = .faulted cause info) : step s = .next s := by
  rw [step, h]

/-- Settles O11: the step has its own arm for FAULTED, and the other operations are refused by their precondition. -/
theorem faultedIsLeftOnlyByInit : Obligations.FaultedIsLeftOnlyByInit := fun s _ _ h =>
  ⟨step_faulted h, whileRunning_faulted _ h, whileRunning_faulted _ h, fun _ _ => whileRunning_faulted _ h,
    fun _ => whileRunning_faulted _ h, init_status s⟩

/-! ### Call and return -/

section
variable {s : State} {nnn : Addr12}

theorem exec_call (h : s.sp ≠ 16) : exec (.call nnn) s =
    .next { s with stack := s.stack.setIfInBounds s.sp.val s.pc, sp := s.sp + 1, pc := addrOperand nnn } :=
  exec_of_no_fault (faultOf_call_eq_none.2 h)

theorem exec_ret (h : s.sp ≠ 0) :
    exec .ret s = .next { s with sp := s.sp - 1, pc := s.stack.getD (s.sp.val - 1) 0 + 2 } :=
  exec_of_no_fault (faultOf_ret_eq_none.2 h)

theorem sp_ne_full (h : s.sp.val < 16) : s.sp ≠ 16 := fun e => absurd (congrArg Fin.val e) h.ne

theorem get_pushed (j : Fin 16) : (s.stack.setIfInBounds s.sp.val s.pc).get j =
    if j.val = s.sp.val then s.pc else s.stack.get j := by
  rw [Vector.get_eq_getElem, Vector.getElem_setIfInBounds, Vector.get_eq_getElem]
  exact if_congr eq_comm rfl rfl

end

/-- Settles O15: the state after a call with room, slot by slot, and its fault without. -/
theorem callPushesItsOwnAddress : Obligations.CallPushesItsOwnAddress := fun nnn _ =>
  ⟨decodeWord_patternValue (i := .call nnn) rfl,
    fun h => ⟨_, exec_call (sp_ne_full h), rfl, addrOperand_toNat nnn, sp_add_one_val (sp_ne_full h), get_pushed⟩,
    fun h => exec_of_fault (if_pos (Fin.ext h))⟩

/-- Settles O16: the entry popped is the last live one. -/
theorem returnPopsAndAddsTwo : Obligations.ReturnPopsAndAddsTwo := by
  refine ⟨decodeWord_patternValue (i := .ret) rfl, fun s => ⟨fun j hj => ?_, fun h => exec_of_fault (if_pos (Fin.ext h))⟩⟩
  have hne : s.sp ≠ 0 := fun e => Nat.succ_ne_zero j.val (hj.symm.trans (congrArg Fin.val e))
  have htop : s.stack.getD (s.sp.val - 1) 0 = s.stack.get j := by rw [hj, vector_get_eq_getD _ j 0, Nat.add_sub_cancel]
  refine ⟨_, exec_ret hne, rfl, Nat.succ.inj ((sp_sub_one_val hne).trans hj), ?_⟩
  rw [htop]
  exact BitVec.toNat_add _ _

/-- Settles O17: the return pops the entry the call pushed, and every entry below it is the caller's. -/
theorem callThenReturnComesBackAfterTheCall : Obligations.CallThenReturnComesBackAfterTheCall := by
  intro nnn s h
  have hval := sp_add_one_val (sp_ne_full h)
  have hne : s.sp + 1 ≠ 0 := fun e => Nat.succ_ne_zero s.sp.val (hval.symm.trans (congrArg Fin.val e))
  have htop : (s.stack.setIfInBounds s.sp.val s.pc).getD ((s.sp + 1).val - 1) 0 = s.pc := by
    rw [hval, Nat.add_sub_cancel]
    exact (vector_get_eq_getD _ ⟨s.sp.val, h⟩ 0).symm.trans ((get_pushed _).trans (if_pos rfl))
  refine ⟨_, _, exec_call (sp_ne_full h), exec_ret hne, ?_, fun j hj => (get_pushed j).trans (if_neg hj.ne)⟩
  simp only [htop, add_sub_cancel_right]

/-! ### The quiescent loop -/

/-- The word of a quiescent loop is the jump to its own address. -/
theorem fetchWord_of_quiescent {s : State} (h : s.quiescent) :
    decodeWord s.fetchWord = some (.jp (s.pc.setWidth 12)) := by
  obtain ⟨-, hpc, hhi, hlo⟩ := h
  have hword : s.fetchWord = BitVec.ofNat 16 (patternValue (.jp (s.pc.setWidth 12))) := by
    apply BitVec.eq_of_toNat_eq
    rw [State.fetchWord, wordOfBytes_toNat, hhi, hlo]
    simp only [patternValue, BitVec.toNat_ofNat, BitVec.toNat_setWidth]
    omega
  rw [hword]
  exact decodeWord_patternValue (i := .jp _) rfl

/-- Settles O49: the step is the jump to `pc`, and a fetchable `pc` fits the twelve bits of its address. -/
theorem aQuiescentLoopNeverMoves : Obligations.AQuiescentLoopNeverMoves := by
  intro s h
  have ⟨hs, hpc, _, _⟩ := h
  have htarget : addrOperand (s.pc.setWidth 12) = s.pc := by
    apply BitVec.eq_of_toNat_eq
    rw [addrOperand_toNat, BitVec.toNat_setWidth]
    omega
  rw [step_of_decoded hs hpc (fetchWord_of_quiescent h)]
  exact congrArg (fun w => Host.Outcome.next (s.setPc w)) htarget

/-! ### Keys -/

/-- Settles O35: with `V[x]` a key both are skips on the level of that key, and otherwise the guard raises. -/
theorem keySkipsTestTheLevel : Obligations.KeySkipsTestTheLevel := by
  refine fun x s => ⟨fun k hk => ⟨?_, ?_⟩, fun h => ⟨exec_of_fault (if_pos h), exec_of_fault (if_pos h)⟩⟩
  · have hexec : exec (.skp x) s = .next (s.skipIf (s.keypad.get k)) :=
      withKey_of_key (act := fun pressed => .next (s.skipIf pressed)) k hk
    rw [hexec]
    exact skipIf_movesPcOnly s Iff.rfl
  · have hexec : exec (.sknp x) s = .next (s.skipIf (!s.keypad.get k)) :=
      withKey_of_key (act := fun pressed => .next (s.skipIf (!pressed))) k hk
    rw [hexec]
    exact skipIf_movesPcOnly s (iff_of_eq (Bool.not_eq_true' _))

theorem keyByte_toNat (k : Key) : (keyByte k).toNat = k.val :=
  (BitVec.toNat_ofNat _ _).trans (Nat.mod_eq_of_lt (k.isLt.trans (by decide)))

theorem execLdVxK_of_no_key {x : Reg} {s : State} (h : s.pressedKeys = []) : execLdVxK x s = .next s := by
  rw [execLdVxK, h]

/-- With keys down, the key stored is one of them. -/
theorem execLdVxK_of_key {x : Reg} {s : State} (h : s.pressedKeys ≠ []) : ∃ k : Key, s.keypad.get k = true ∧
    execLdVxK x s = .next ({ s with freeIndex := s.freeIndex + 1 }.writeV x (keyByte k)).advance := by
  cases hp : s.pressedKeys with
  | nil => exact absurd hp h
  | cons k rest =>
    refine ⟨chooseKey (Config.freePick s.freeIndex) k rest, ?_, by rw [execLdVxK, hp]⟩
    rw [← State.mem_pressedKeys, hp]
    exact chooseKey_mem _ k rest

/-- Settles O36: by whether the list of pressed keys is empty. -/
theorem keyWaitIdlesUntilAKeyIsDown : Obligations.KeyWaitIdlesUntilAKeyIsDown := by
  refine fun x s => ⟨fun h => execLdVxK_of_no_key (pressedKeys_eq_nil.2 h), fun ⟨k, hk⟩ => ?_⟩
  have hne : s.pressedKeys ≠ [] := List.ne_nil_of_mem ((s.mem_pressedKeys k).2 hk)
  obtain ⟨j, hj, hexec⟩ := execLdVxK_of_key (x := x) hne
  refine ⟨_, hexec, rfl, ⟨j, hj, ?_⟩, fun r hr => State.readV_writeV_of_ne _ _ hr⟩
  rw [State.readV_advance, State.readV_writeV_same, keyByte_toNat]

end Sys2Proof.Machine
end

section
/-!
PROOFS. Drawing (44_display.md sections 2 and 3). A draw toggles the list of cells its sprite covers, each once, and reports whether one of
them was set; so two draws of one list restore the screen, and on a blank screen the second reports a collision exactly when the list is
not empty, which is when the sprite has a set bit.
-/

namespace Sys2Proof.Machine

/-- The cells the sprite of a Dxyn covers. -/
def State.cells (s : State) (x y : Reg) (n : Nat) : List (Fin 2048) :=
  spriteCells s.mem s.idx.toNat ((s.readV x).toNat % 64) ((s.readV y).toNat % 32) n

section
variable {s t : State} {x y : Reg} {n : Nat}

/-! ### The canvas of one draw -/

/-- A draw is the toggling of its cells, and these are distinct. -/
theorem drawn_eq_foldl (hn : n ≤ 15) : (s.cells x y n).Nodup ∧
    s.drawn x y n = (s.cells x y n).foldl Canvas.toggle { gfx := s.gfx, hit := false } :=
  ⟨nodup_spriteCells _ _ _ _ n (hn.trans (by decide)), drawSprite_eq_foldl ..⟩

theorem drawn_get (hn : n ≤ 15) (c : Fin 2048) :
    (s.drawn x y n).gfx.get c = if c ∈ s.cells x y n then !s.gfx.get c else s.gfx.get c := by
  obtain ⟨hnodup, hdrawn⟩ := drawn_eq_foldl (s := s) (x := x) (y := y) hn
  rw [hdrawn, (foldl_toggle _ hnodup _).1]

theorem drawn_hit_iff (hn : n ≤ 15) : (s.drawn x y n).hit = true ↔ ∃ c ∈ s.cells x y n, s.gfx.get c = true := by
  obtain ⟨hnodup, hdrawn⟩ := drawn_eq_foldl (s := s) (x := x) (y := y) hn
  rw [hdrawn, (foldl_toggle _ hnodup _).2]
  exact or_iff_right Bool.false_ne_true

/-- A well-formed Dxyn whose rows lie inside `mem` completes. -/
theorem exec_drw (hin : footprintInside (.drw x y n) s) : exec (.drw x y n) s = .next (s.completed (.drw x y n)) :=
  exec_of_no_fault (if_pos hin)

/-- `V[15]` after a draw: 1 on a collision, else 0. -/
theorem completed_drw_readV_flag : (s.completed (.drw x y n)).readV 15 = flagByte (s.drawn x y n).hit :=
  State.readV_writeV_same s flagReg _

/-! ### The same sprite at the same location -/

/-- After a draw that leaves the coordinates, the next draw covers the same cells. -/
theorem cells_of_same_location (hmem : t.mem = s.mem) (hidx : t.idx = s.idx)
    (hx : (t.readV x).toNat % 64 = (s.readV x).toNat % 64) (hy : (t.readV y).toNat % 32 = (s.readV y).toNat % 32) :
    t.cells x y n = s.cells x y n := by
  rw [State.cells, State.cells, hmem, hidx, hx, hy]

theorem byte_ne_zero_iff (b : Byte) : b ≠ 0 ↔ ∃ c < 8, spriteBit b c = true := by
  constructor
  · intro hb
    by_contra hall
    refine hb (BitVec.eq_of_getLsbD_eq fun j hj => ?_)
    have hbit : spriteBit b (7 - j) ≠ true := fun h => hall ⟨7 - j, by omega, h⟩
    rw [spriteBit, show 7 - (7 - j) = j by omega] at hbit
    rw [Bool.eq_false_of_not_eq_true hbit]
    exact (BitVec.getLsbD_zero).symm
  · rintro ⟨c, -, h⟩ rfl
    exact absurd h (by simp [spriteBit])

/-- A sprite covers a cell exactly when one of its rows has a set bit. -/
theorem exists_mem_cells : (∃ c, c ∈ s.cells x y n) ↔ ∃ r < n, s.mem.read (s.idx.toNat + r) ≠ 0 := by
  simp only [State.cells, mem_spriteCells, byte_ne_zero_iff]
  constructor
  · rintro ⟨_, r, hr, c, hc, hb, -⟩
    exact ⟨r, hr, c, hc, hb⟩
  · rintro ⟨r, hr, c, hc, hb⟩
    exact ⟨_, r, hr, c, hc, hb, rfl⟩

/-! ### Two draws of the same cells -/

section
variable (hn : n ≤ 15) (hcells : t.cells x y n = s.cells x y n) (hgfx : t.gfx = (s.drawn x y n).gfx)
include hn hcells hgfx

theorem drawn_again_gfx : (t.drawn x y n).gfx = s.gfx := by
  apply Vector.ext
  intro c hc
  refine (drawn_get hn ⟨c, hc⟩).trans ?_
  rw [hcells, hgfx, drawn_get hn]
  by_cases hmem : (⟨c, hc⟩ : Fin 2048) ∈ s.cells x y n
  · rw [if_pos hmem, if_pos hmem, Bool.not_not]; rfl
  · rw [if_neg hmem, if_neg hmem]; rfl

/-- On a screen that was blank before the first draw, every covered cell is set before the second. -/
theorem drawn_again_hit_of_blank (hblank : ∀ c, s.gfx.get c = false) :
    (t.drawn x y n).hit = true ↔ ∃ r < n, s.mem.read (s.idx.toNat + r) ≠ 0 := by
  rw [drawn_hit_iff hn, hcells, ← exists_mem_cells]
  refine exists_congr fun c => and_iff_left_of_imp fun hc => ?_
  rw [hgfx, drawn_get hn, if_pos hc, hblank, Bool.not_false]

end

theorem drawn_hit_of_blank (hn : n ≤ 15) (hblank : ∀ c, s.gfx.get c = false) : (s.drawn x y n).hit = false := by
  refine Bool.eq_false_of_not_eq_true (mt (drawn_hit_iff hn).1 ?_)
  rintro ⟨c, -, hc⟩
  exact Bool.false_ne_true ((hblank c).symm.trans hc)

end

/-- Settles O33: the cells of the sprite are those `spriteCovers` names, so the law of a draw says what each cell and the flag become. -/
theorem drawFlipsExactlyTheCoveredCells : Obligations.DrawFlipsExactlyTheCoveredCells := by
  intro x y n s hwell hin
  have hn : n ≤ 15 := of_decide_eq_true hwell
  have hcovers (c : Fin 2048) : spriteCovers x y n s c ↔ c ∈ s.cells x y n := spriteCovers_iff x y n s c
  simp only [hcovers]
  refine ⟨_, exec_drw hin, rfl, fun r hr => State.readV_writeV_of_ne s _ hr,
    fun c => ⟨fun hc => (drawn_get hn c).trans (if_pos hc), fun hc => (drawn_get hn c).trans (if_neg hc)⟩,
    fun hset => ?_, fun hnot => ?_⟩
  · rw [completed_drw_readV_flag, (drawn_hit_iff hn).2 hset]
    rfl
  · rw [completed_drw_readV_flag, Bool.eq_false_of_not_eq_true (mt (drawn_hit_iff hn).1 hnot)]
    rfl

/-- Settles O34: the second draw toggles the cells of the first. -/
theorem drawingTwiceRestoresTheScreen : Obligations.DrawingTwiceRestoresTheScreen := by
  intro x y n s t hwell hin h hx hy
  have ht : t = s.completed (.drw x y n) := Host.Outcome.next.inj (h.symm.trans (exec_drw hin))
  have hmem : t.mem = s.mem := ht ▸ rfl
  have hidx : t.idx = s.idx := ht ▸ rfl
  have hgfx : t.gfx = (s.drawn x y n).gfx := ht ▸ rfl
  have hcells : t.cells x y n = s.cells x y n := cells_of_same_location hmem hidx hx hy
  have hint : footprintInside (.drw x y n) t := by rwa [footprintInside, hidx]
  have hn : n ≤ 15 := of_decide_eq_true hwell
  refine ⟨_, exec_drw hint, drawn_again_gfx hn hcells hgfx, fun hblank => ⟨?_, ?_⟩⟩
  · rw [ht, completed_drw_readV_flag, drawn_hit_of_blank hn hblank]
    rfl
  · rw [completed_drw_readV_flag, flagByte]
    exact if_congr (drawn_again_hit_of_blank hn hcells hgfx hblank) rfl rfl

end Sys2Proof.Machine
end

section
/-!
PROOFS. The host protocol (60_exceptions.md sections 7 to 9, 70_reset_and_hazards.md sections 1 and 2, 10_state.md section 5). The load
window is a fact about the phase: an operation other than `Init` leaves a phase that is not `loading` as it is, because a step leads to
`stepping`, a load is refused there, and a failed load leads to `loadFailed`. What a run of operations keeps follows by
`Session.run_induction`.
-/

namespace Sys2Proof.Machine

section
variable {σ τ : Session}

/-! ### The load window -/

theorem Session.load_phase {bytes : List Byte} (hp : σ.phase ≠ .loading) (h : σ.load bytes = .next τ) : τ.phase = σ.phase := by
  obtain ⟨hs, rfl | ⟨-, hτ⟩⟩ := Session.load_next h
  · show Phase.loadFailed = σ.phase
    cases hphase : σ.phase
    · exact absurd hphase hp
    · rfl
    · exact absurd hphase hs
  · exact hτ

theorem Session.step_phase (hp : σ.phase ≠ .loading) (h : σ.step = .next τ) : τ.phase = σ.phase := by
  cases hphase : σ.phase with
  | loading => exact absurd hphase hp
  | loadFailed => rw [Session.step, hphase] at h; cases h
  | stepping => exact (Session.step_next h).2

theorem Session.apply_phase {op : Operation} (hop : op ≠ .init) (hp : σ.phase ≠ .loading) (h : σ.apply op = .next τ) :
    τ.phase = σ.phase := by
  cases op with
  | init => exact absurd rfl hop
  | load bytes => exact Session.load_phase hp h
  | step => exact Session.step_phase hp h
  | tick | setKey | clearDrawFlag => exact (Session.after_next h).2

theorem Session.run_phase {ops : List Operation} (hops : Operation.init ∉ ops) (hp : σ.phase ≠ .loading)
    (h : Session.run ops σ = .next τ) : τ.phase = σ.phase :=
  Session.run_induction (allowed := (· ≠ .init)) (P := fun υ => υ.phase = σ.phase)
    (fun hop hυ happly => (Session.apply_phase hop (hυ ▸ hp) happly).trans hυ)
    (fun _ hmem e => hops (e ▸ hmem)) rfl h

theorem Session.load_of_length_gt {bytes : List Byte} (hs : σ.core.status = .running) (hp : σ.phase ≠ .stepping)
    (hlen : bytes.length > 3584) : σ.load bytes = .next { σ with phase := .loadFailed } := by
  have hload := Machine.load_of_length_gt hs hlen
  unfold Session.load
  cases hphase : σ.phase with
  | stepping => exact absurd hphase hp
  | loading | loadFailed => simp only [hload]

theorem Session.load_stepping (bytes : List Byte) (hp : σ.phase = .stepping) : σ.load bytes = .refused .loadAfterStep := by
  rw [Session.load, hp]

theorem Session.step_loadFailed (hp : σ.phase = .loadFailed) : σ.step = .refused .stepAfterLoadError := by
  rw [Session.step, hp]

end

/-- Settles O56: by the phase that each operation, and so each run without `Init`, leaves. -/
theorem theLoadWindowClosesAtTheFirstStep : Obligations.TheLoadWindowClosesAtTheFirstStep := fun bytes _ _ =>
  ⟨fun h => (Session.step_next h).2, fun hs hp hlen => ⟨_, Session.load_of_length_gt hs hp hlen, rfl, rfl⟩,
    Session.load_stepping bytes, Session.step_loadFailed, fun _ => Session.apply_phase, fun _ => Session.run_phase,
    ⟨_, rfl, rfl, rfl⟩⟩

/-! ### Ticks in a row -/

/-- The session after a tick. -/
def Session.ticked (σ : Session) : Session :=
  { σ with core := { σ.core with delayTimer := countDown σ.core.delayTimer, soundTimer := countDown σ.core.soundTimer } }

theorem Session.apply_tick {σ : Session} (hs : σ.core.status = .running) : σ.apply .tick = .next σ.ticked :=
  congrArg (Session.after σ.phase) (tick_running hs)

/-- Settles O58: by induction on the number of ticks; each takes one from what is left, floored at 0. -/
theorem manyTicksFloorAtZero : Obligations.ManyTicksFloorAtZero := by
  intro n
  induction n with
  | zero => exact fun σ _ => ⟨σ, rfl, rfl, rfl, rfl, rfl⟩
  | succ n ih =>
    intro σ hs
    obtain ⟨τ, hrun, hphase, hcore, hdelay, hsound⟩ := ih σ.ticked hs
    refine ⟨τ, ?_, hphase, hcore, ?_, ?_⟩
    · rw [List.replicate_succ, Session.run, Session.apply_tick hs]
      exact hrun
    · rw [hdelay, Session.ticked, countDown_toNat, Nat.sub_sub, Nat.add_comm]
    · rw [hsound, Session.ticked, countDown_toNat, Nat.sub_sub, Nat.add_comm]

/-! ### Keys and the draw flag -/

section
variable {s : State} (b : Bool)

theorem setKey_running (hs : s.status = .running) (k : Key) :
    setKey k.val b s = .next { s with keypad := s.keypad.set k.val b k.isLt } :=
  (whileRunning_running _ hs).trans (dif_pos k.isLt)

theorem setKey_of_large (hs : s.status = .running) {k : Nat} (hk : k > 15) :
    setKey k b s = .refused (.keyIndexOutsideInterface k) :=
  (whileRunning_running _ hs).trans (dif_neg (not_lt.2 hk))

theorem get_setKey (keys : Vector Bool 16) (k j : Key) : (keys.set k.val b k.isLt).get j = if j = k then b else keys.get j := by
  rw [Vector.get_eq_getElem, Vector.getElem_set, Vector.get_eq_getElem]
  exact if_congr (by rw [Fin.ext_iff, eq_comm]) rfl rfl

theorem clearDrawFlag_running (hs : s.status = .running) : clearDrawFlag s = .next { s with drawFlag := false } :=
  whileRunning_running _ hs

end

/-- Settles O59: by the equations of the two operations, the keypad's frame in a step, and the step's blindness to the draw flag. -/
theorem setKeyAndClearDrawFlagTouchOneThing : Obligations.SetKeyAndClearDrawFlagTouchOneThing := fun b s hs =>
  ⟨fun k => ⟨_, setKey_running b hs k, rfl, get_setKey b s.keypad k⟩, fun _ => setKey_of_large b hs, fun _ => step_keypad,
    ⟨_, clearDrawFlag_running hs, rfl, step_withoutDrawFlag s false⟩⟩

/-! ### Before the first `Init` -/

section
variable {σ : Session}

theorem step_notStarted {s : State} (h : s.status = .notStarted) : step s = .refused .notStarted := by
  rw [step, h]

/-- A load is refused for its phase or, as the core's precondition fails, for the core's status. -/
theorem Session.load_notStarted (bytes : List Byte) (h : σ.core.status = .notStarted) :
    (∃ r, σ.load bytes = .refused r) ∧ (σ.phase = .loading → σ.load bytes = .refused .notStarted) := by
  have hload : Machine.load bytes σ.core = .refused .notStarted := whileRunning_notStarted _ h
  unfold Session.load
  cases σ.phase with
  | stepping => exact ⟨⟨_, rfl⟩, nofun⟩
  | loading | loadFailed => simp only [hload, implies_true, and_true, exists_eq', Host.Outcome.refused.injEq]

theorem Session.step_notStarted (h : σ.core.status = .notStarted) :
    (∃ r, σ.step = .refused r) ∧ (σ.phase = .loading → σ.step = .refused .notStarted) := by
  have hstep : Machine.step σ.core = .refused .notStarted := Machine.step_notStarted h
  unfold Session.step
  cases σ.phase with
  | loadFailed => exact ⟨⟨_, rfl⟩, nofun⟩
  | loading | stepping => simp only [hstep, Session.after, implies_true, and_true, exists_eq', Host.Outcome.refused.injEq]

/-- The operations that the phase does not guard. -/
theorem Session.after_notStarted {act : Result} (p : Phase) (h : σ.core.status = .notStarted) :
    Session.after p (whileRunning σ.core act) = .refused .notStarted := by
  rw [whileRunning_notStarted act h, Session.after]

theorem Session.apply_notStarted {op : Operation} (h : σ.core.status = .notStarted) (hop : op ≠ .init) :
    (∃ r, σ.apply op = .refused r) ∧ (σ.phase = .loading → σ.apply op = .refused .notStarted) := by
  cases op with
  | init => exact absurd rfl hop
  | load bytes => exact Session.load_notStarted bytes h
  | step => exact Session.step_notStarted h
  | tick | setKey | clearDrawFlag => exact ⟨⟨_, Session.after_notStarted σ.phase h⟩, fun _ => Session.after_notStarted σ.phase h⟩

end

/-- Settles O60: every operation but `Init` is refused, and `Init` has no precondition. -/
theorem nothingButInitBeforeInit : Obligations.NothingButInitBeforeInit :=
  ⟨fun _ _ => Session.apply_notStarted, fun σ => ⟨_, rfl, init_status σ.core⟩⟩

end Sys2Proof.Machine
end
